-- ==== Sys2Proof/Word.lean ====
section
/-!
DEFINITION. The machine's word types (00_scope.md R8, R9): 8-bit register and memory values, 16-bit
addresses, register pairs and port numbers.
-/

namespace Sys2Proof

/-- An 8-bit value: A, F, B, C, D, E, H, L, their shadows, I, R, a memory byte, a port byte (R8). -/
abbrev Byte := BitVec 8

/-- A 16-bit value: PC, SP, IX, IY, MEMPTR, a register pair, a memory or port address (R8, R9). -/
abbrev Word := BitVec 16

end Sys2Proof
end

