-- ==== Sys2Proof/Machine/Bits.lean ====
section
/-!
DEFINITION. Bit fields, byte order and sign extension (00_scope.md R12 to R15).
-/

namespace Sys2Proof

/-- `hi8(w) = w[15:8]` (R13). -/
def hi8 (w : Word) : Byte := w.extractLsb' 8 8

/-- `lo8(w) = w[7:0]` (R13). -/
def lo8 (w : Word) : Byte := w.extractLsb' 0 8

/-- `a:b`, the 16-bit value a*256 + b (R13). -/
def mk16 (hi lo : Byte) : Word := hi ++ lo

/-- `sext_8(v)` as a 16-bit value, as it is added to an address (R14, R151). -/
def sext16 (v : Byte) : Word := v.signExtend 16

/-- The mask `m` if the condition holds, else 0: how a formula places `bool(c)` at a bit. -/
def flagIf (c : Bool) (m : Byte) : Byte := if c then m else 0

/-- `parity(v)`: the number of 1 bits of v is even (R19). -/
def parity (v : Byte) : Bool :=
  !(v.getLsbD 0 ^^ v.getLsbD 1 ^^ v.getLsbD 2 ^^ v.getLsbD 3 ^^ v.getLsbD 4 ^^ v.getLsbD 5 ^^ v.getLsbD 6 ^^ v.getLsbD 7)

end Sys2Proof
end

