-- ==== Sys2Proof/Machine/Flags.lean ====
section
/-!
DEFINITION. The flag register's bits (10_state.md R45), the flag tables (R49), and every result and flag computation
of the instruction rules, each as a function of values: it gives the result and the new F.
-/

namespace Sys2Proof.Machine

/-- The eight flags of F (R45). -/
inductive FlagBit where
  | s | z | five | h | three | pv | n | c
  deriving DecidableEq, Repr

/-- The bit of F that holds a flag (R45). -/
def FlagBit.index : FlagBit → Nat
  | .s => 7 | .z => 6 | .five => 5 | .h => 4 | .three => 3 | .pv => 2 | .n => 1 | .c => 0

/-- One flag of a flag byte (R19). -/
def flag (k : FlagBit) (f : Byte) : Bool := f.getLsbD k.index

/-! ## The flag tables (R49) -/

/-- S, Z, 5, 3 of a value; PV = H = N = C = 0 (R49). -/
def tabAdd (v : Byte) : Byte := (v &&& 0xA8) ||| flagIf (v == 0) 0x40
/-- `tabAdd` and PV = parity (R49). -/
def tabAddP (v : Byte) : Byte := tabAdd v ||| flagIf (parity v) 0x04
/-- `tabAdd` and N = 1 (R49). -/
def tabSub (v : Byte) : Byte := tabAdd v ||| 0x02
/-- `tabAddP` and N = 1 (R49). -/
def tabSubP (v : Byte) : Byte := tabAddP v ||| 0x02

/-! ## 8-bit arithmetic and logic (43_alu8.md) -/

/-- `add8(x, c)` with accumulator `a`: the sum and F (R350). -/
def add8 (a x : Byte) (cin : Bool) : Byte × Byte :=
  let res := a.toNat + x.toNat + cin.toNat
  let r : Byte := BitVec.ofNat 8 res
  (r, tabAdd r ||| ((a ^^^ x ^^^ r) &&& 0x10)
    ||| flagIf (((a ^^^ ~~~x) &&& (a ^^^ r)) &&& 0x80 != 0) 0x04 ||| flagIf (decide (res > 0xFF)) 0x01)

/-- `sub8(x, c)` with accumulator `a`: the difference and F (R351). -/
def sub8 (a x : Byte) (cin : Bool) : Byte × Byte :=
  let res : Int := (a.toNat : Int) - (x.toNat : Int) - (cin.toNat : Int)
  let r : Byte := BitVec.ofInt 8 res
  (r, tabSub r ||| ((a ^^^ x ^^^ r) &&& 0x10)
    ||| flagIf (((a ^^^ x) &&& (a ^^^ r)) &&& 0x80 != 0) 0x04 ||| flagIf (decide (res < 0)) 0x01)

/-- `and8(x)` (R352). -/
def and8 (a x : Byte) : Byte × Byte := (a &&& x, tabAddP (a &&& x) ||| 0x10)
/-- `xor8(x)` (R352). -/
def xor8 (a x : Byte) : Byte × Byte := (a ^^^ x, tabAddP (a ^^^ x))
/-- `or8(x)` (R352). -/
def or8 (a x : Byte) : Byte × Byte := (a ||| x, tabAddP (a ||| x))

/-- `cp8(x)`: the flags of `a - x`, with 5 and 3 from the operand; the accumulator stays (R353). -/
def cp8 (a x : Byte) : Byte × Byte := (a, ((sub8 a x false).2 &&& 0xD7) ||| (x &&& 0x28))

/-- `inc8(v)` under the flags `f`, whose C stays (R354). -/
def inc8 (v f : Byte) : Byte × Byte :=
  let r := v + 1
  (r, tabAdd r ||| flagIf (r &&& 0x0F == 0x00) 0x10 ||| flagIf (r == 0x80) 0x04 ||| (f &&& 0x01))

/-- `dec8(v)` under the flags `f`, whose C stays (R355). -/
def dec8 (v f : Byte) : Byte × Byte :=
  let r := v - 1
  (r, tabSub r ||| flagIf (r &&& 0x0F == 0x0F) 0x10 ||| flagIf (r == 0x7F) 0x04 ||| (f &&& 0x01))

/-- DAA: the correction goes through `sub8` or `add8` by N, with no carry-in; S, Z, 5, 3 and parity come from the
corrected accumulator, H from the correction, C from the old C or a > 0x99 (R380). -/
def daa (a f : Byte) : Byte × Byte :=
  let low : Byte := if flag .h f || decide ((a &&& 0x0F).toNat > 9) then 0x06 else 0
  let k : Byte := if flag .c f || decide (a.toNat > 0x99) then low ||| 0x60 else low
  let cy := flag .c f || decide (a.toNat > 0x99)
  if flag .n f then
    let o := sub8 a k false
    (o.1, (o.2 &&& 0x10) ||| tabSubP o.1 ||| flagIf cy 0x01)
  else
    let o := add8 a k false
    (o.1, (o.2 &&& 0x10) ||| tabAddP o.1 ||| flagIf cy 0x01)

/-- CPL (R381). -/
def cpl (a f : Byte) : Byte × Byte := (a ^^^ 0xFF, (f &&& 0xC5) ||| 0x12 ||| ((a ^^^ 0xFF) &&& 0x28))

/-- NEG: 0 - A by `sub8` (R382). -/
def neg8 (a : Byte) : Byte × Byte := sub8 0 a false

/-- The flag history Q of SCF and CCF: F if the previous instruction wrote the flags, else 0 (R386, D17). -/
def historyQ (lastQ : Bool) (f : Byte) : Byte := if lastQ then f else 0

/-- The F of SCF (R386). -/
def scfFlags (a f : Byte) (lastQ : Bool) : Byte :=
  (f &&& 0xC4) ||| (((historyQ lastQ f ^^^ f) ||| a) &&& 0x28) ||| 0x01

/-- The F of CCF: H is the old C, C is inverted (R387). -/
def ccfFlags (a f : Byte) (lastQ : Bool) : Byte :=
  (f &&& 0xC4) ||| (((historyQ lastQ f ^^^ f) ||| a) &&& 0x28)
    ||| flagIf (flag .c f) 0x10 ||| flagIf (!flag .c f) 0x01

/-! ## 16-bit arithmetic (44_alu16.md R420) -/

/-- `add16(a, b)` under the flags `f`: S, Z and PV stay (R420). -/
def add16 (a b : Word) (f : Byte) : Word × Byte :=
  let res := a.toNat + b.toNat
  let r : Word := BitVec.ofNat 16 res
  (r, (f &&& 0xC4) ||| (hi8 r &&& 0x28) ||| (hi8 (a ^^^ b ^^^ r) &&& 0x10) ||| flagIf (decide (res > 0xFFFF)) 0x01)

/-- `adc16(b)` with first operand `a` (R420). -/
def adc16 (a b : Word) (cin : Bool) : Word × Byte :=
  let res := a.toNat + b.toNat + cin.toNat
  let r : Word := BitVec.ofNat 16 res
  (r, (hi8 r &&& 0xA8) ||| flagIf (r == 0) 0x40 ||| (hi8 (a ^^^ b ^^^ r) &&& 0x10)
    ||| flagIf (((a ^^^ ~~~b) &&& (a ^^^ r)) &&& 0x8000 != 0) 0x04 ||| flagIf (decide (res > 0xFFFF)) 0x01)

/-- `sbc16(b)` with first operand `a` (R420). -/
def sbc16 (a b : Word) (cin : Bool) : Word × Byte :=
  let res : Int := (a.toNat : Int) - (b.toNat : Int) - (cin.toNat : Int)
  let r : Word := BitVec.ofInt 16 res
  (r, (hi8 r &&& 0xA8) ||| flagIf (r == 0) 0x40 ||| (hi8 (a ^^^ b ^^^ r) &&& 0x10)
    ||| flagIf (((a ^^^ b) &&& (a ^^^ r)) &&& 0x8000 != 0) 0x04 ||| 0x02 ||| flagIf (decide (res < 0)) 0x01)

/-! ## Rotates, shifts and bit tests (45_rotate_bit.md) -/

/-- The rotate and shift operations, in the order of their codes k = 0 to 7 (R147). -/
inductive ShiftOp where
  | rlc | rrc | rl | rr | sla | sra | sll | srl
  deriving DecidableEq, Repr

/-- The shifted value, with the carry-in for RL and RR (R455). -/
def ShiftOp.result (k : ShiftOp) (v : Byte) (cin : Bool) : Byte :=
  match k with
  | .rlc => (v <<< 1) ||| flagIf (v.getLsbD 7) 0x01
  | .rrc => (v >>> 1) ||| flagIf (v.getLsbD 0) 0x80
  | .rl => (v <<< 1) ||| flagIf cin 0x01
  | .rr => (v >>> 1) ||| flagIf cin 0x80
  | .sla => v <<< 1
  | .sra => (v >>> 1) ||| (v &&& 0x80)
  | .sll => (v <<< 1) ||| 0x01
  | .srl => v >>> 1

/-- The bit shifted out: bit 7 to the left, bit 0 to the right (R455). -/
def ShiftOp.out (k : ShiftOp) (v : Byte) : Bool :=
  match k with
  | .rlc | .rl | .sla | .sll => v.getLsbD 7
  | .rrc | .rr | .sra | .srl => v.getLsbD 0

/-- `shift(k, v)` under the flags `f`, whose C is the carry-in (R455). -/
def shift8 (k : ShiftOp) (v f : Byte) : Byte × Byte :=
  let r := k.result v (flag .c f)
  (r, tabAddP r ||| flagIf (k.out v) 0x01)

/-- The accumulator rotates RLCA, RRCA, RLA, RRA: the shift's result and carry; S, Z and PV stay, 5 and 3 come from the
new A, H = N = 0 (R450 to R453). -/
def accRotate (k : ShiftOp) (a f : Byte) : Byte × Byte :=
  let r := k.result a (flag .c f)
  (r, (f &&& 0xC4) ||| (r &&& 0x28) ||| flagIf (k.out a) 0x01)

/-- `bit(b, v, xy)` under the flags `f`, whose C stays: the new F (R456). -/
def bitFlags (bit : BitVec 3) (v xy f : Byte) : Byte :=
  let set := v.getLsbD bit.toNat
  (xy &&& 0x28) ||| 0x10 ||| (f &&& 0x01) ||| flagIf (!set) 0x44 ||| flagIf (set && bit == 7) 0x80

/-- `1 << b` (R475, R480). -/
def bitMask (bit : BitVec 3) : Byte := 1 <<< bit.toNat

/-- RES: clear one bit (R475). -/
def resBit (bit : BitVec 3) (v : Byte) : Byte := v &&& ~~~(bitMask bit)

/-- SET: set one bit (R480). -/
def setBit (bit : BitVec 3) (v : Byte) : Byte := v ||| bitMask bit

/-! ## Block instructions (42_block.md) -/

/-- The F of LDI and LDD: `v` the transferred byte, `more` whether BC is not 0 after the decrement (R301). -/
def transferFlags (a v f : Byte) (more : Bool) : Byte :=
  let n := v + a
  (f &&& 0xC1) ||| (n &&& 0x08) ||| ((n &&& 0x02) <<< 4) ||| flagIf more 0x04

/-- The F of CPI and CPD: `v` the byte compared with A (R311). -/
def compareFlags (a v f : Byte) (more : Bool) : Byte :=
  let res := a - v
  let hb := (a ^^^ v ^^^ res) &&& 0x10
  let n := res - (hb >>> 4)
  (res &&& 0x80) ||| flagIf (res == 0) 0x40 ||| ((n &&& 0x02) <<< 4) ||| hb ||| (n &&& 0x08) ||| flagIf more 0x04
    ||| 0x02 ||| (f &&& 0x01)

/-- `ioFlags(t, k)`: `b` the counter after its decrement, `t` the transferred byte, `k` the rule's 9-bit sum (R320). -/
def ioFlags (b t : Byte) (k : Nat) : Byte :=
  tabAdd b ||| flagIf (t.getLsbD 7) 0x02 ||| flagIf (decide (k > 255)) 0x11
    ||| flagIf (parity ((BitVec.ofNat 8 k &&& 0x07) ^^^ b)) 0x04

/-! ## Loads that set flags -/

/-- The F of LD A,I and LD A,R: S, Z, 5, 3 from the new A, PV = IFF2, C stays (R231, R232). -/
def loadIrFlags (a f : Byte) (iff2 : Bool) : Byte := tabAdd a ||| flagIf iff2 0x04 ||| (f &&& 0x01)

/-- S, Z, 5, 3 and parity of a value, C stays: IN r,(C), RLD, RRD (R490, R491, R552). -/
def parityFlags (v f : Byte) : Byte := tabAddP v ||| (f &&& 0x01)

end Sys2Proof.Machine
end

