-- ==== Sys2Proof/Config.lean ====
section
/-!
DEFINITION. What is fixed for one machine and is no state: what an unlisted memory byte reads as, the bound of a
prefix chain, and the free values that answer a port read.
-/

namespace Sys2Proof.Config

/-- What a memory byte reads as when the memory lists nothing at its address. DESIGN CHOICE, unsafe (log 1): the spec
leaves the contents of `Mem` to the platform (R100, D2). -/
def unlistedByte : Byte := 0x00

/-- How many consecutive DD/FD bytes one step may consume before it ends with the outcome Hang (R164). -/
def chainLimit : Nat := 65536

/-- The answer of the oracle `PortIn` to the `n`-th port read of the machine's life, at port `p`, when the host has
given no answer in advance (R103, D3). A free value: it has no body, so nothing can be proved of it (log 3). -/
opaque portAnswer (n : Nat) (p : Word) : Byte

end Sys2Proof.Config
end

