-- ==== Sys2Proof/Syntax.lean ====
section
/-!
DEFINITION. The instructions: one constructor for every mnemonic of spec/opcode_table.json, in the table's order, with
the operand types of 30_encoding.md. Constructors of the DD/FD domain carry the index register X that the prefix byte
selected (R150); the rows that are prefixes (R162, R163, R165) are constructors as well.
-/

namespace Sys2Proof

/-- A register named by a 3-bit register code other than 110 (R143). -/
inductive Reg8 where
  | b | c | d | e | h | l | a
  deriving DecidableEq, Repr

/-- A register pair named by code rp (R144). -/
inductive RegPair where
  | bc | de | hl | sp
  deriving DecidableEq, Repr

/-- A register pair named by code qq, of PUSH and POP (R144). -/
inductive StackPair where
  | bc | de | hl | af
  deriving DecidableEq, Repr

/-- The index register X selected by a DD (IX) or FD (IY) prefix byte (R150). -/
inductive IndexReg where
  | ix | iy
  deriving DecidableEq, Repr

/-- The second operand of ADD X,rp: code 10 is X itself (R144, R422). -/
inductive IndexPair where
  | bc | de | x | sp
  deriving DecidableEq, Repr

/-- The source of LD XH,s and LD XL,s: code 100 is XH, 101 is XL (R216, R217). -/
inductive IndexSrc where
  | b | c | d | e | xh | xl | a
  deriving DecidableEq, Repr

/-- A condition code (R145). -/
inductive Cond where
  | nz | z | nc | c | po | pe | p | m
  deriving DecidableEq, Repr

/-- The decode space of a dispatching byte (R152 to R156). The index domains carry the selected index register, the
DD/FD-CB domain also the displacement byte, which precedes its dispatching byte (R165). -/
inductive Domain where
  | base
  | cb
  | ed
  | index (x : IndexReg)
  | indexCB (x : IndexReg) (d : Byte)
  deriving DecidableEq, Repr

/-- The instructions of the opcode table. -/
inductive Instr where
  -- unprefixed domain
  /-- NOP (R580). -/
  | nop
  /-- LD rp,nn (R250). -/
  | ldRpNn (rp : RegPair) (nn : Word)
  /-- LD (BC),A (R208). -/
  | ldBcA
  /-- INC rp (R425). -/
  | incRp (rp : RegPair)
  /-- INC r (R370). -/
  | incR (r : Reg8)
  /-- DEC r (R374). -/
  | decR (r : Reg8)
  /-- LD r,n (R201). -/
  | ldRN (r : Reg8) (n : Byte)
  /-- RLCA (R450). -/
  | rlca
  /-- EX AF,AF' (R271). -/
  | exAfAf
  /-- ADD HL,rp (R421). -/
  | addHlRp (rp : RegPair)
  /-- LD A,(BC) (R205). -/
  | ldABc
  /-- DEC rp (R426). -/
  | decRp (rp : RegPair)
  /-- RRCA (R451). -/
  | rrca
  /-- DJNZ e (R506). -/
  | djnz (e : Byte)
  /-- LD (DE),A (R209). -/
  | ldDeA
  /-- RLA (R452). -/
  | rla
  /-- JR e (R504). -/
  | jr (e : Byte)
  /-- LD A,(DE) (R206). -/
  | ldADe
  /-- RRA (R453). -/
  | rra
  /-- JR cc,e (R505). -/
  | jrCc (cc : Cond) (e : Byte)
  /-- LD (nn),HL (R252). -/
  | ldMemHl (nn : Word)
  /-- DAA (R380). -/
  | daa
  /-- LD HL,(nn) (R251). -/
  | ldHlMem (nn : Word)
  /-- CPL (R381). -/
  | cpl
  /-- LD (nn),A (R210). -/
  | ldMemA (nn : Word)
  /-- INC (HL) (R371). -/
  | incHl
  /-- DEC (HL) (R375). -/
  | decHl
  /-- LD (HL),n (R204). -/
  | ldHlN (n : Byte)
  /-- SCF (R386). -/
  | scf
  /-- LD A,(nn) (R207). -/
  | ldAMem (nn : Word)
  /-- CCF (R387). -/
  | ccf
  /-- LD r,r' (R200). -/
  | ldRR (r : Reg8) (s : Reg8)
  /-- LD r,(HL) (R202). -/
  | ldRHl (r : Reg8)
  /-- LD (HL),r (R203). -/
  | ldHlR (r : Reg8)
  /-- HALT (R581). -/
  | halt
  /-- ADD A,r (R360). -/
  | addR (r : Reg8)
  /-- ADD A,(HL) (R360). -/
  | addHl
  /-- ADD A,n (R360). -/
  | addN (n : Byte)
  /-- ADC A,r (R361). -/
  | adcR (r : Reg8)
  /-- ADC A,(HL) (R361). -/
  | adcHl
  /-- ADC A,n (R361). -/
  | adcN (n : Byte)
  /-- SUB r (R362). -/
  | subR (r : Reg8)
  /-- SUB (HL) (R362). -/
  | subHl
  /-- SUB n (R362). -/
  | subN (n : Byte)
  /-- SBC A,r (R363). -/
  | sbcR (r : Reg8)
  /-- SBC A,(HL) (R363). -/
  | sbcHl
  /-- SBC A,n (R363). -/
  | sbcN (n : Byte)
  /-- AND r (R364). -/
  | andR (r : Reg8)
  /-- AND (HL) (R364). -/
  | andHl
  /-- AND n (R364). -/
  | andN (n : Byte)
  /-- XOR r (R365). -/
  | xorR (r : Reg8)
  /-- XOR (HL) (R365). -/
  | xorHl
  /-- XOR n (R365). -/
  | xorN (n : Byte)
  /-- OR r (R366). -/
  | orR (r : Reg8)
  /-- OR (HL) (R366). -/
  | orHl
  /-- OR n (R366). -/
  | orN (n : Byte)
  /-- CP r (R367). -/
  | cpR (r : Reg8)
  /-- CP (HL) (R367). -/
  | cpHl
  /-- CP n (R367). -/
  | cpN (n : Byte)
  /-- RET cc (R510). -/
  | retCc (cc : Cond)
  /-- POP qq (R265). -/
  | popQq (qq : StackPair)
  /-- JP cc,nn (R501). -/
  | jpCc (cc : Cond) (nn : Word)
  /-- JP nn (R500). -/
  | jp (nn : Word)
  /-- CALL cc,nn (R508). -/
  | callCc (cc : Cond) (nn : Word)
  /-- PUSH qq (R264). -/
  | pushQq (qq : StackPair)
  /-- RST p (R512). -/
  | rst (t : BitVec 3)
  /-- RET (R509). -/
  | ret
  /-- prefix CB (R162). -/
  | prefixCB
  /-- CALL nn (R507). -/
  | call (nn : Word)
  /-- OUT (n),A (R551). -/
  | outNA (n : Byte)
  /-- EXX (R272). -/
  | exx
  /-- IN A,(n) (R550). -/
  | inAN (n : Byte)
  /-- prefix DD (IX) (R162). -/
  | prefixDD
  /-- EX (SP),HL (R273). -/
  | exSpHl
  /-- JP (HL) (R502). -/
  | jpHl
  /-- EX DE,HL (R270). -/
  | exDeHl
  /-- prefix ED (R162). -/
  | prefixED
  /-- DI (R582). -/
  | di
  /-- LD SP,HL (R255). -/
  | ldSpHl
  /-- EI (R583). -/
  | ei
  /-- prefix FD (IY) (R162). -/
  | prefixFD
  -- CB domain
  /-- RLC r (R460). -/
  | rlcR (r : Reg8)
  /-- RLC (HL) (R460). -/
  | rlcHl
  /-- RRC r (R461). -/
  | rrcR (r : Reg8)
  /-- RRC (HL) (R461). -/
  | rrcHl
  /-- RL r (R462). -/
  | rlR (r : Reg8)
  /-- RL (HL) (R462). -/
  | rlHl
  /-- RR r (R463). -/
  | rrR (r : Reg8)
  /-- RR (HL) (R463). -/
  | rrHl
  /-- SLA r (R464). -/
  | slaR (r : Reg8)
  /-- SLA (HL) (R464). -/
  | slaHl
  /-- SRA r (R465). -/
  | sraR (r : Reg8)
  /-- SRA (HL) (R465). -/
  | sraHl
  /-- SLL r (R466). -/
  | sllR (r : Reg8)
  /-- SLL (HL) (R466). -/
  | sllHl
  /-- SRL r (R467). -/
  | srlR (r : Reg8)
  /-- SRL (HL) (R467). -/
  | srlHl
  /-- BIT b,r (R470). -/
  | bitR (bit : BitVec 3) (r : Reg8)
  /-- BIT b,(HL) (R472). -/
  | bitHl (bit : BitVec 3)
  /-- RES b,r (R475). -/
  | resR (bit : BitVec 3) (r : Reg8)
  /-- RES b,(HL) (R476). -/
  | resHl (bit : BitVec 3)
  /-- SET b,r (R480). -/
  | setR (bit : BitVec 3) (r : Reg8)
  /-- SET b,(HL) (R481). -/
  | setHl (bit : BitVec 3)
  -- ED domain
  /-- IN r,(C) (R552). -/
  | inRC (r : Reg8)
  /-- IN (C) (R553). -/
  | inC
  /-- OUT (C),r (R554). -/
  | outCR (r : Reg8)
  /-- OUT (C),0 (R555). -/
  | outC0
  /-- SBC HL,rp (R424). -/
  | sbcHlRp (rp : RegPair)
  /-- ADC HL,rp (R423). -/
  | adcHlRp (rp : RegPair)
  /-- LD (nn),rp (R254). -/
  | ldMemRp (rp : RegPair) (nn : Word)
  /-- LD rp,(nn) (R253). -/
  | ldRpMem (rp : RegPair) (nn : Word)
  /-- NEG (R382). -/
  | neg (y : BitVec 3)
  /-- RETN (R520). -/
  | retn (y : BitVec 3)
  /-- RETI (R521). -/
  | reti
  /-- IM 0 (R584). -/
  | im0 (y : BitVec 3)
  /-- IM 1 (R584). -/
  | im1 (y : BitVec 3)
  /-- IM 2 (R584). -/
  | im2 (y : BitVec 3)
  /-- LD I,A (R233). -/
  | ldIA
  /-- LD R,A (R234). -/
  | ldRefreshA
  /-- LD A,I (R231). -/
  | ldAI
  /-- LD A,R (R232). -/
  | ldARefresh
  /-- RRD (R491). -/
  | rrd
  /-- RLD (R490). -/
  | rld
  /-- ED no-op (R585). -/
  | edNop (op : Byte)
  /-- LDI (R301). -/
  | ldi
  /-- CPI (R311). -/
  | cpi
  /-- INI (R321). -/
  | ini
  /-- OUTI (R325). -/
  | outi
  /-- LDD (R302). -/
  | ldd
  /-- CPD (R312). -/
  | cpd
  /-- IND (R322). -/
  | ind
  /-- OUTD (R326). -/
  | outd
  /-- LDIR (R303). -/
  | ldir
  /-- CPIR (R313). -/
  | cpir
  /-- INIR (R323). -/
  | inir
  /-- OTIR (R327). -/
  | otir
  /-- LDDR (R304). -/
  | lddr
  /-- CPDR (R314). -/
  | cpdr
  /-- INDR (R324). -/
  | indr
  /-- OTDR (R328). -/
  | otdr
  -- DD/FD domain
  /-- ADD X,rp (R422). -/
  | addXRp (x : IndexReg) (rp : IndexPair)
  /-- LD X,nn (R256). -/
  | ldXNn (x : IndexReg) (nn : Word)
  /-- LD (nn),X (R258). -/
  | ldMemX (x : IndexReg) (nn : Word)
  /-- INC X (R427). -/
  | incX (x : IndexReg)
  /-- INC XH (R373). -/
  | incXh (x : IndexReg)
  /-- DEC XH (R377). -/
  | decXh (x : IndexReg)
  /-- LD XH,n (R218). -/
  | ldXhN (x : IndexReg) (n : Byte)
  /-- LD X,(nn) (R257). -/
  | ldXMem (x : IndexReg) (nn : Word)
  /-- DEC X (R428). -/
  | decX (x : IndexReg)
  /-- INC XL (R373). -/
  | incXl (x : IndexReg)
  /-- DEC XL (R377). -/
  | decXl (x : IndexReg)
  /-- LD XL,n (R219). -/
  | ldXlN (x : IndexReg) (n : Byte)
  /-- INC (X+d) (R372). -/
  | incXd (x : IndexReg) (d : Byte)
  /-- DEC (X+d) (R376). -/
  | decXd (x : IndexReg) (d : Byte)
  /-- LD (X+d),n (R213). -/
  | ldXdN (x : IndexReg) (d : Byte) (n : Byte)
  /-- LD r,XH (R214). -/
  | ldRXh (x : IndexReg) (r : Reg8)
  /-- LD r,XL (R215). -/
  | ldRXl (x : IndexReg) (r : Reg8)
  /-- LD r,(X+d) (R211). -/
  | ldRXd (x : IndexReg) (d : Byte) (r : Reg8)
  /-- LD XH,s (R216). -/
  | ldXhS (x : IndexReg) (s : IndexSrc)
  /-- LD XL,s (R217). -/
  | ldXlS (x : IndexReg) (s : IndexSrc)
  /-- LD (X+d),r (R212). -/
  | ldXdR (x : IndexReg) (d : Byte) (r : Reg8)
  /-- ADD A,XH (R360). -/
  | addXh (x : IndexReg)
  /-- ADD A,XL (R360). -/
  | addXl (x : IndexReg)
  /-- ADD A,(X+d) (R360). -/
  | addXd (x : IndexReg) (d : Byte)
  /-- ADC A,XH (R361). -/
  | adcXh (x : IndexReg)
  /-- ADC A,XL (R361). -/
  | adcXl (x : IndexReg)
  /-- ADC A,(X+d) (R361). -/
  | adcXd (x : IndexReg) (d : Byte)
  /-- SUB XH (R362). -/
  | subXh (x : IndexReg)
  /-- SUB XL (R362). -/
  | subXl (x : IndexReg)
  /-- SUB (X+d) (R362). -/
  | subXd (x : IndexReg) (d : Byte)
  /-- SBC A,XH (R363). -/
  | sbcXh (x : IndexReg)
  /-- SBC A,XL (R363). -/
  | sbcXl (x : IndexReg)
  /-- SBC A,(X+d) (R363). -/
  | sbcXd (x : IndexReg) (d : Byte)
  /-- AND XH (R364). -/
  | andXh (x : IndexReg)
  /-- AND XL (R364). -/
  | andXl (x : IndexReg)
  /-- AND (X+d) (R364). -/
  | andXd (x : IndexReg) (d : Byte)
  /-- XOR XH (R365). -/
  | xorXh (x : IndexReg)
  /-- XOR XL (R365). -/
  | xorXl (x : IndexReg)
  /-- XOR (X+d) (R365). -/
  | xorXd (x : IndexReg) (d : Byte)
  /-- OR XH (R366). -/
  | orXh (x : IndexReg)
  /-- OR XL (R366). -/
  | orXl (x : IndexReg)
  /-- OR (X+d) (R366). -/
  | orXd (x : IndexReg) (d : Byte)
  /-- CP XH (R367). -/
  | cpXh (x : IndexReg)
  /-- CP XL (R367). -/
  | cpXl (x : IndexReg)
  /-- CP (X+d) (R367). -/
  | cpXd (x : IndexReg) (d : Byte)
  /-- prefix DD/FD CB (R165). -/
  | prefixXCB (x : IndexReg) (d : Byte)
  /-- POP X (R267). -/
  | popX (x : IndexReg)
  /-- EX (SP),X (R274). -/
  | exSpX (x : IndexReg)
  /-- PUSH X (R266). -/
  | pushX (x : IndexReg)
  /-- JP (X) (R503). -/
  | jpX (x : IndexReg)
  /-- LD SP,X (R259). -/
  | ldSpX (x : IndexReg)
  /-- DD/FD fallback (prefix ignored) (R163). -/
  | ddFallback (x : IndexReg) (op : Byte)
  -- DD/FD CB domain
  /-- RLC (X+d) (R460). -/
  | rlcXd (x : IndexReg) (d : Byte)
  /-- RLC (X+d),r (R460). -/
  | rlcXdR (x : IndexReg) (d : Byte) (r : Reg8)
  /-- RRC (X+d) (R461). -/
  | rrcXd (x : IndexReg) (d : Byte)
  /-- RRC (X+d),r (R461). -/
  | rrcXdR (x : IndexReg) (d : Byte) (r : Reg8)
  /-- RL (X+d) (R462). -/
  | rlXd (x : IndexReg) (d : Byte)
  /-- RL (X+d),r (R462). -/
  | rlXdR (x : IndexReg) (d : Byte) (r : Reg8)
  /-- RR (X+d) (R463). -/
  | rrXd (x : IndexReg) (d : Byte)
  /-- RR (X+d),r (R463). -/
  | rrXdR (x : IndexReg) (d : Byte) (r : Reg8)
  /-- SLA (X+d) (R464). -/
  | slaXd (x : IndexReg) (d : Byte)
  /-- SLA (X+d),r (R464). -/
  | slaXdR (x : IndexReg) (d : Byte) (r : Reg8)
  /-- SRA (X+d) (R465). -/
  | sraXd (x : IndexReg) (d : Byte)
  /-- SRA (X+d),r (R465). -/
  | sraXdR (x : IndexReg) (d : Byte) (r : Reg8)
  /-- SLL (X+d) (R466). -/
  | sllXd (x : IndexReg) (d : Byte)
  /-- SLL (X+d),r (R466). -/
  | sllXdR (x : IndexReg) (d : Byte) (r : Reg8)
  /-- SRL (X+d) (R467). -/
  | srlXd (x : IndexReg) (d : Byte)
  /-- SRL (X+d),r (R467). -/
  | srlXdR (x : IndexReg) (d : Byte) (r : Reg8)
  /-- BIT b,(X+d) (R473). -/
  | bitXd (x : IndexReg) (d : Byte) (bit : BitVec 3) (z : BitVec 3)
  /-- RES b,(X+d) (R477). -/
  | resXd (x : IndexReg) (d : Byte) (bit : BitVec 3)
  /-- RES b,(X+d),r (R477). -/
  | resXdR (x : IndexReg) (d : Byte) (bit : BitVec 3) (r : Reg8)
  /-- SET b,(X+d) (R482). -/
  | setXd (x : IndexReg) (d : Byte) (bit : BitVec 3)
  /-- SET b,(X+d),r (R482). -/
  | setXdR (x : IndexReg) (d : Byte) (bit : BitVec 3) (r : Reg8)
  deriving DecidableEq, Repr

end Sys2Proof
end

