-- ==== Sys2Proof/WellFormed.lean ====
section
/-!
DEFINITION. Which instruction terms the encoding can express: every operand is in the range its field admits
(30_encoding.md R143 to R156). Decoding gives well-formed instructions only.
-/

namespace Sys2Proof

/-- The 86 bytes that have a row of their own after a DD or FD prefix, 0xCB included (R155). -/
def indexSet : List Byte :=
  [ 0x09, 0x19, 0x21, 0x22, 0x23, 0x24, 0x25, 0x26, 0x29, 0x2A, 0x2B, 0x2C, 0x2D, 0x2E, 0x34, 0x35, 0x36, 0x39,
    0x44, 0x45, 0x46, 0x4C, 0x4D, 0x4E, 0x54, 0x55, 0x56, 0x5C, 0x5D, 0x5E, 0x60, 0x61, 0x62, 0x63, 0x64, 0x65,
    0x66, 0x67, 0x68, 0x69, 0x6A, 0x6B, 0x6C ] ++
  [ 0x6D, 0x6E, 0x6F, 0x70, 0x71, 0x72, 0x73, 0x74, 0x75, 0x77, 0x7C, 0x7D, 0x7E, 0x84, 0x85, 0x86, 0x8C, 0x8D,
    0x8E, 0x94, 0x95, 0x96, 0x9C, 0x9D, 0x9E, 0xA4, 0xA5, 0xA6, 0xAC, 0xAD, 0xAE, 0xB4, 0xB5, 0xB6, 0xBC, 0xBD,
    0xBE, 0xCB, 0xE1, 0xE3, 0xE5, 0xE9, 0xF9 ]

/-- The byte has a row of its own in the DD/FD domain (R155). -/
def inIndexSet (op : Byte) : Bool := indexSet.contains op

/-- The byte after 0xED is an unrecognized ED opcode: 00-3F, 77, 7F, 80-9F, A4-A7, AC-AF, B4-B7, BC-BF, C0-FF (R585). -/
def isEdNop (op : Byte) : Bool :=
  op.toNat < 0x40 || op == 0x77 || op == 0x7F || (0x80 ≤ op.toNat && op.toNat < 0xA0) ||
  (0xA4 ≤ op.toNat && op.toNat < 0xA8) || (0xAC ≤ op.toNat && op.toNat < 0xB0) ||
  (0xB4 ≤ op.toNat && op.toNat < 0xB8) || (0xBC ≤ op.toNat && op.toNat < 0xC0) || 0xC0 ≤ op.toNat

/-- The register is none of H and L, whose codes name XH and XL in the rows LD r,XH and LD r,XL (R214, R215). -/
def Reg8.notHL : Reg8 → Bool
  | .h | .l => false
  | .b | .c | .d | .e | .a => true

/-- JR cc has the conditions of codes 000 to 011 only (R145, R505). -/
def Cond.isJr : Cond → Bool
  | .nz | .z | .nc | .c => true
  | .po | .pe | .p | .m => false

/-- Every operand of the instruction is one that its encoding can hold. -/
def Instr.wf : Instr → Bool
  | .jrCc cc _ => cc.isJr
  | .ldRXh _ r => r.notHL
  | .ldRXl _ r => r.notHL
  | .retn y => y != 1
  | .im0 y => y == 0 || y == 1 || y == 4 || y == 5
  | .im1 y => y == 2 || y == 6
  | .im2 y => y == 3 || y == 7
  | .edNop op => isEdNop op
  | .ddFallback _ op => !inIndexSet op
  | .nop | .ldRpNn _ _ | .ldBcA | .incRp _ | .incR _ | .decR _ | .ldRN _ _ | .rlca | .exAfAf | .addHlRp _
  | .ldABc | .decRp _ | .rrca | .djnz _ | .ldDeA | .rla | .jr _ | .ldADe | .rra | .ldMemHl _ | .daa
  | .ldHlMem _ | .cpl | .ldMemA _ | .incHl | .decHl | .ldHlN _ | .scf | .ldAMem _ | .ccf | .ldRR _ _ | .ldRHl _
  | .ldHlR _ | .halt | .addR _ | .addHl | .addN _ | .adcR _ | .adcHl | .adcN _ | .subR _ | .subHl | .subN _
  | .sbcR _ | .sbcHl | .sbcN _ | .andR _ | .andHl | .andN _ | .xorR _ | .xorHl | .xorN _ | .orR _ | .orHl
  | .orN _ | .cpR _ | .cpHl | .cpN _ | .retCc _ | .popQq _ | .jpCc _ _ | .jp _ | .callCc _ _ | .pushQq _
  | .rst _ | .ret | .prefixCB | .call _ | .outNA _ | .exx | .inAN _ | .prefixDD | .exSpHl | .jpHl | .exDeHl
  | .prefixED | .di | .ldSpHl | .ei | .prefixFD | .rlcR _ | .rlcHl | .rrcR _ | .rrcHl | .rlR _ | .rlHl | .rrR _
  | .rrHl | .slaR _ | .slaHl | .sraR _ | .sraHl | .sllR _ | .sllHl | .srlR _ | .srlHl | .bitR _ _ | .bitHl _
  | .resR _ _ | .resHl _ | .setR _ _ | .setHl _ | .inRC _ | .inC | .outCR _ | .outC0 | .sbcHlRp _ | .adcHlRp _
  | .ldMemRp _ _ | .ldRpMem _ _ | .neg _ | .reti | .ldIA | .ldRefreshA | .ldAI | .ldARefresh | .rrd | .rld
  | .ldi | .cpi | .ini | .outi | .ldd | .cpd | .ind | .outd | .ldir | .cpir | .inir | .otir | .lddr | .cpdr
  | .indr | .otdr | .addXRp _ _ | .ldXNn _ _ | .ldMemX _ _ | .incX _ | .incXh _ | .decXh _ | .ldXhN _ _
  | .ldXMem _ _ | .decX _ | .incXl _ | .decXl _ | .ldXlN _ _ | .incXd _ _ | .decXd _ _ | .ldXdN _ _ _
  | .ldRXd _ _ _ | .ldXhS _ _ | .ldXlS _ _ | .ldXdR _ _ _ | .addXh _ | .addXl _ | .addXd _ _ | .adcXh _
  | .adcXl _ | .adcXd _ _ | .subXh _ | .subXl _ | .subXd _ _ | .sbcXh _ | .sbcXl _ | .sbcXd _ _ | .andXh _
  | .andXl _ | .andXd _ _ | .xorXh _ | .xorXl _ | .xorXd _ _ | .orXh _ | .orXl _ | .orXd _ _ | .cpXh _
  | .cpXl _ | .cpXd _ _ | .prefixXCB _ _ | .popX _ | .exSpX _ | .pushX _ | .jpX _ | .ldSpX _ | .rlcXd _ _
  | .rlcXdR _ _ _ | .rrcXd _ _ | .rrcXdR _ _ _ | .rlXd _ _ | .rlXdR _ _ _ | .rrXd _ _ | .rrXdR _ _ _
  | .slaXd _ _ | .slaXdR _ _ _ | .sraXd _ _ | .sraXdR _ _ _ | .sllXd _ _ | .sllXdR _ _ _ | .srlXd _ _
  | .srlXdR _ _ _ | .bitXd _ _ _ _ | .resXd _ _ _ | .resXdR _ _ _ _ | .setXd _ _ _ | .setXdR _ _ _ _ => true

end Sys2Proof
end

