-- ==== Sys2Proof/Decode.lean ====
section
/-!
DEFINITION. The decoder, one list of rows for each domain of 30_encoding.md (the rows of spec/opcode_table.json, in its
order, each with the table's match, mask and exclude), and after it the encoder, written from the same encodings.
A row is selected by one dispatching byte of its domain; its operand bytes are the bytes after that byte (R141, R151).
-/

namespace Sys2Proof

/-! ## Fields of a dispatching byte (R142) -/

/-- Field y = op[5:3]. -/
def fieldY (op : Byte) : BitVec 3 := op.extractLsb' 3 3
/-- Field z = op[2:0]. -/
def fieldZ (op : Byte) : BitVec 3 := op.extractLsb' 0 3
/-- Field p = op[5:4]. -/
def fieldP (op : Byte) : BitVec 2 := op.extractLsb' 4 2
/-- The condition of JR cc, op[4:3], as a 3-bit condition code (R145). -/
def fieldCC (op : Byte) : BitVec 3 := (op.extractLsb' 3 2).setWidth 3

/-- Register codes (R143). Code 110 names the memory operand (HL) and no register: every row with a register field
excludes it, so what this answers for it is never used. -/
def Reg8.ofCode (k : BitVec 3) : Reg8 :=
  match k.toNat with
  | 0 => .b | 1 => .c | 2 => .d | 3 => .e | 4 => .h | 5 => .l | _ => .a

/-- Pair codes rp (R144). -/
def RegPair.ofCode (k : BitVec 2) : RegPair :=
  match k.toNat with
  | 0 => .bc | 1 => .de | 2 => .hl | _ => .sp

/-- Pair codes qq (R144). -/
def StackPair.ofCode (k : BitVec 2) : StackPair :=
  match k.toNat with
  | 0 => .bc | 1 => .de | 2 => .hl | _ => .af

/-- Pair codes under a DD/FD prefix: code 10 is X itself (R144, R422). -/
def IndexPair.ofCode (k : BitVec 2) : IndexPair :=
  match k.toNat with
  | 0 => .bc | 1 => .de | 2 => .x | _ => .sp

/-- Source codes of LD XH,s and LD XL,s (R216, R217); code 110 is excluded by both rows. -/
def IndexSrc.ofCode (k : BitVec 3) : IndexSrc :=
  match k.toNat with
  | 0 => .b | 1 => .c | 2 => .d | 3 => .e | 4 => .xh | 5 => .xl | _ => .a

/-- Condition codes (R145). -/
def Cond.ofCode (k : BitVec 3) : Cond :=
  match k.toNat with
  | 0 => .nz | 1 => .z | 2 => .nc | 3 => .c | 4 => .po | 5 => .pe | 6 => .p | _ => .m

/-! ## The rows -/

/-- One row of the opcode table: the dispatching bytes `op` with `op &&& mask = pattern` that are not in `exclude`, and
the instruction they select, from `op` and the two bytes that follow it. -/
structure Row where
  pattern : Byte
  mask : Byte
  exclude : List Byte
  build : Byte → Byte → Byte → Instr

/-- The row is the one of this dispatching byte. -/
def Row.hits (row : Row) (op : Byte) : Bool :=
  op &&& row.mask == row.pattern && !row.exclude.contains op

/-- The unprefixed domain (R152). -/
def baseRows : List Row :=
  [ ⟨0x00, 0xFF, [], fun _ _ _ => .nop⟩,
    ⟨0x01, 0xCF, [], fun op n1 n2 => .ldRpNn (RegPair.ofCode (fieldP op)) (mk16 n2 n1)⟩,
    ⟨0x02, 0xFF, [], fun _ _ _ => .ldBcA⟩,
    ⟨0x03, 0xCF, [], fun op _ _ => .incRp (RegPair.ofCode (fieldP op))⟩,
    ⟨0x04, 0xC7, [0x34], fun op _ _ => .incR (Reg8.ofCode (fieldY op))⟩,
    ⟨0x05, 0xC7, [0x35], fun op _ _ => .decR (Reg8.ofCode (fieldY op))⟩,
    ⟨0x06, 0xC7, [0x36], fun op n1 _ => .ldRN (Reg8.ofCode (fieldY op)) n1⟩,
    ⟨0x07, 0xFF, [], fun _ _ _ => .rlca⟩,
    ⟨0x08, 0xFF, [], fun _ _ _ => .exAfAf⟩,
    ⟨0x09, 0xCF, [], fun op _ _ => .addHlRp (RegPair.ofCode (fieldP op))⟩,
    ⟨0x0A, 0xFF, [], fun _ _ _ => .ldABc⟩,
    ⟨0x0B, 0xCF, [], fun op _ _ => .decRp (RegPair.ofCode (fieldP op))⟩ ] ++
  [ ⟨0x0F, 0xFF, [], fun _ _ _ => .rrca⟩,
    ⟨0x10, 0xFF, [], fun _ n1 _ => .djnz n1⟩,
    ⟨0x12, 0xFF, [], fun _ _ _ => .ldDeA⟩,
    ⟨0x17, 0xFF, [], fun _ _ _ => .rla⟩,
    ⟨0x18, 0xFF, [], fun _ n1 _ => .jr n1⟩,
    ⟨0x1A, 0xFF, [], fun _ _ _ => .ldADe⟩,
    ⟨0x1F, 0xFF, [], fun _ _ _ => .rra⟩,
    ⟨0x20, 0xE7, [], fun op n1 _ => .jrCc (Cond.ofCode (fieldCC op)) n1⟩,
    ⟨0x22, 0xFF, [], fun _ n1 n2 => .ldMemHl (mk16 n2 n1)⟩,
    ⟨0x27, 0xFF, [], fun _ _ _ => .daa⟩,
    ⟨0x2A, 0xFF, [], fun _ n1 n2 => .ldHlMem (mk16 n2 n1)⟩,
    ⟨0x2F, 0xFF, [], fun _ _ _ => .cpl⟩ ] ++
  [ ⟨0x32, 0xFF, [], fun _ n1 n2 => .ldMemA (mk16 n2 n1)⟩,
    ⟨0x34, 0xFF, [], fun _ _ _ => .incHl⟩,
    ⟨0x35, 0xFF, [], fun _ _ _ => .decHl⟩,
    ⟨0x36, 0xFF, [], fun _ n1 _ => .ldHlN n1⟩,
    ⟨0x37, 0xFF, [], fun _ _ _ => .scf⟩,
    ⟨0x3A, 0xFF, [], fun _ n1 n2 => .ldAMem (mk16 n2 n1)⟩,
    ⟨0x3F, 0xFF, [], fun _ _ _ => .ccf⟩,
    ⟨0x40, 0xC0, [0x46, 0x4E, 0x56, 0x5E, 0x66, 0x6E, 0x76, 0x7E, 0x70, 0x71, 0x72, 0x73, 0x74, 0x75, 0x77], fun op _ _ => .ldRR (Reg8.ofCode (fieldY op)) (Reg8.ofCode (fieldZ op))⟩,
    ⟨0x46, 0xC7, [0x76], fun op _ _ => .ldRHl (Reg8.ofCode (fieldY op))⟩,
    ⟨0x70, 0xF8, [0x76], fun op _ _ => .ldHlR (Reg8.ofCode (fieldZ op))⟩,
    ⟨0x76, 0xFF, [], fun _ _ _ => .halt⟩,
    ⟨0x80, 0xF8, [0x86], fun op _ _ => .addR (Reg8.ofCode (fieldZ op))⟩ ] ++
  [ ⟨0x86, 0xFF, [], fun _ _ _ => .addHl⟩,
    ⟨0xC6, 0xFF, [], fun _ n1 _ => .addN n1⟩,
    ⟨0x88, 0xF8, [0x8E], fun op _ _ => .adcR (Reg8.ofCode (fieldZ op))⟩,
    ⟨0x8E, 0xFF, [], fun _ _ _ => .adcHl⟩,
    ⟨0xCE, 0xFF, [], fun _ n1 _ => .adcN n1⟩,
    ⟨0x90, 0xF8, [0x96], fun op _ _ => .subR (Reg8.ofCode (fieldZ op))⟩,
    ⟨0x96, 0xFF, [], fun _ _ _ => .subHl⟩,
    ⟨0xD6, 0xFF, [], fun _ n1 _ => .subN n1⟩,
    ⟨0x98, 0xF8, [0x9E], fun op _ _ => .sbcR (Reg8.ofCode (fieldZ op))⟩,
    ⟨0x9E, 0xFF, [], fun _ _ _ => .sbcHl⟩,
    ⟨0xDE, 0xFF, [], fun _ n1 _ => .sbcN n1⟩,
    ⟨0xA0, 0xF8, [0xA6], fun op _ _ => .andR (Reg8.ofCode (fieldZ op))⟩ ] ++
  [ ⟨0xA6, 0xFF, [], fun _ _ _ => .andHl⟩,
    ⟨0xE6, 0xFF, [], fun _ n1 _ => .andN n1⟩,
    ⟨0xA8, 0xF8, [0xAE], fun op _ _ => .xorR (Reg8.ofCode (fieldZ op))⟩,
    ⟨0xAE, 0xFF, [], fun _ _ _ => .xorHl⟩,
    ⟨0xEE, 0xFF, [], fun _ n1 _ => .xorN n1⟩,
    ⟨0xB0, 0xF8, [0xB6], fun op _ _ => .orR (Reg8.ofCode (fieldZ op))⟩,
    ⟨0xB6, 0xFF, [], fun _ _ _ => .orHl⟩,
    ⟨0xF6, 0xFF, [], fun _ n1 _ => .orN n1⟩,
    ⟨0xB8, 0xF8, [0xBE], fun op _ _ => .cpR (Reg8.ofCode (fieldZ op))⟩,
    ⟨0xBE, 0xFF, [], fun _ _ _ => .cpHl⟩,
    ⟨0xFE, 0xFF, [], fun _ n1 _ => .cpN n1⟩,
    ⟨0xC0, 0xC7, [], fun op _ _ => .retCc (Cond.ofCode (fieldY op))⟩ ] ++
  [ ⟨0xC1, 0xCF, [], fun op _ _ => .popQq (StackPair.ofCode (fieldP op))⟩,
    ⟨0xC2, 0xC7, [], fun op n1 n2 => .jpCc (Cond.ofCode (fieldY op)) (mk16 n2 n1)⟩,
    ⟨0xC3, 0xFF, [], fun _ n1 n2 => .jp (mk16 n2 n1)⟩,
    ⟨0xC4, 0xC7, [], fun op n1 n2 => .callCc (Cond.ofCode (fieldY op)) (mk16 n2 n1)⟩,
    ⟨0xC5, 0xCF, [], fun op _ _ => .pushQq (StackPair.ofCode (fieldP op))⟩,
    ⟨0xC7, 0xC7, [], fun op _ _ => .rst (fieldY op)⟩,
    ⟨0xC9, 0xFF, [], fun _ _ _ => .ret⟩,
    ⟨0xCB, 0xFF, [], fun _ _ _ => .prefixCB⟩,
    ⟨0xCD, 0xFF, [], fun _ n1 n2 => .call (mk16 n2 n1)⟩,
    ⟨0xD3, 0xFF, [], fun _ n1 _ => .outNA n1⟩,
    ⟨0xD9, 0xFF, [], fun _ _ _ => .exx⟩,
    ⟨0xDB, 0xFF, [], fun _ n1 _ => .inAN n1⟩ ] ++
  [ ⟨0xDD, 0xFF, [], fun _ _ _ => .prefixDD⟩,
    ⟨0xE3, 0xFF, [], fun _ _ _ => .exSpHl⟩,
    ⟨0xE9, 0xFF, [], fun _ _ _ => .jpHl⟩,
    ⟨0xEB, 0xFF, [], fun _ _ _ => .exDeHl⟩,
    ⟨0xED, 0xFF, [], fun _ _ _ => .prefixED⟩,
    ⟨0xF3, 0xFF, [], fun _ _ _ => .di⟩,
    ⟨0xF9, 0xFF, [], fun _ _ _ => .ldSpHl⟩,
    ⟨0xFB, 0xFF, [], fun _ _ _ => .ei⟩,
    ⟨0xFD, 0xFF, [], fun _ _ _ => .prefixFD⟩ ]

/-- The CB domain (R153). -/
def cbRows : List Row :=
  [ ⟨0x00, 0xF8, [0x06], fun op _ _ => .rlcR (Reg8.ofCode (fieldZ op))⟩,
    ⟨0x06, 0xFF, [], fun _ _ _ => .rlcHl⟩,
    ⟨0x08, 0xF8, [0x0E], fun op _ _ => .rrcR (Reg8.ofCode (fieldZ op))⟩,
    ⟨0x0E, 0xFF, [], fun _ _ _ => .rrcHl⟩,
    ⟨0x10, 0xF8, [0x16], fun op _ _ => .rlR (Reg8.ofCode (fieldZ op))⟩,
    ⟨0x16, 0xFF, [], fun _ _ _ => .rlHl⟩,
    ⟨0x18, 0xF8, [0x1E], fun op _ _ => .rrR (Reg8.ofCode (fieldZ op))⟩,
    ⟨0x1E, 0xFF, [], fun _ _ _ => .rrHl⟩,
    ⟨0x20, 0xF8, [0x26], fun op _ _ => .slaR (Reg8.ofCode (fieldZ op))⟩,
    ⟨0x26, 0xFF, [], fun _ _ _ => .slaHl⟩,
    ⟨0x28, 0xF8, [0x2E], fun op _ _ => .sraR (Reg8.ofCode (fieldZ op))⟩,
    ⟨0x2E, 0xFF, [], fun _ _ _ => .sraHl⟩ ] ++
  [ ⟨0x30, 0xF8, [0x36], fun op _ _ => .sllR (Reg8.ofCode (fieldZ op))⟩,
    ⟨0x36, 0xFF, [], fun _ _ _ => .sllHl⟩,
    ⟨0x38, 0xF8, [0x3E], fun op _ _ => .srlR (Reg8.ofCode (fieldZ op))⟩,
    ⟨0x3E, 0xFF, [], fun _ _ _ => .srlHl⟩,
    ⟨0x40, 0xC0, [0x46, 0x4E, 0x56, 0x5E, 0x66, 0x6E, 0x76, 0x7E], fun op _ _ => .bitR (fieldY op) (Reg8.ofCode (fieldZ op))⟩,
    ⟨0x46, 0xC7, [], fun op _ _ => .bitHl (fieldY op)⟩,
    ⟨0x80, 0xC0, [0x86, 0x8E, 0x96, 0x9E, 0xA6, 0xAE, 0xB6, 0xBE], fun op _ _ => .resR (fieldY op) (Reg8.ofCode (fieldZ op))⟩,
    ⟨0x86, 0xC7, [], fun op _ _ => .resHl (fieldY op)⟩,
    ⟨0xC0, 0xC0, [0xC6, 0xCE, 0xD6, 0xDE, 0xE6, 0xEE, 0xF6, 0xFE], fun op _ _ => .setR (fieldY op) (Reg8.ofCode (fieldZ op))⟩,
    ⟨0xC6, 0xC7, [], fun op _ _ => .setHl (fieldY op)⟩ ]

/-- The ED domain (R154). -/
def edRows : List Row :=
  [ ⟨0x40, 0xC7, [0x70], fun op _ _ => .inRC (Reg8.ofCode (fieldY op))⟩,
    ⟨0x70, 0xFF, [], fun _ _ _ => .inC⟩,
    ⟨0x41, 0xC7, [0x71], fun op _ _ => .outCR (Reg8.ofCode (fieldY op))⟩,
    ⟨0x71, 0xFF, [], fun _ _ _ => .outC0⟩,
    ⟨0x42, 0xCF, [], fun op _ _ => .sbcHlRp (RegPair.ofCode (fieldP op))⟩,
    ⟨0x4A, 0xCF, [], fun op _ _ => .adcHlRp (RegPair.ofCode (fieldP op))⟩,
    ⟨0x43, 0xCF, [], fun op n1 n2 => .ldMemRp (RegPair.ofCode (fieldP op)) (mk16 n2 n1)⟩,
    ⟨0x4B, 0xCF, [], fun op n1 n2 => .ldRpMem (RegPair.ofCode (fieldP op)) (mk16 n2 n1)⟩,
    ⟨0x44, 0xC7, [], fun op _ _ => .neg (fieldY op)⟩,
    ⟨0x45, 0xC7, [0x4D], fun op _ _ => .retn (fieldY op)⟩,
    ⟨0x4D, 0xFF, [], fun _ _ _ => .reti⟩,
    ⟨0x46, 0xD7, [], fun op _ _ => .im0 (fieldY op)⟩ ] ++
  [ ⟨0x56, 0xDF, [], fun op _ _ => .im1 (fieldY op)⟩,
    ⟨0x5E, 0xDF, [], fun op _ _ => .im2 (fieldY op)⟩,
    ⟨0x47, 0xFF, [], fun _ _ _ => .ldIA⟩,
    ⟨0x4F, 0xFF, [], fun _ _ _ => .ldRefreshA⟩,
    ⟨0x57, 0xFF, [], fun _ _ _ => .ldAI⟩,
    ⟨0x5F, 0xFF, [], fun _ _ _ => .ldARefresh⟩,
    ⟨0x67, 0xFF, [], fun _ _ _ => .rrd⟩,
    ⟨0x6F, 0xFF, [], fun _ _ _ => .rld⟩,
    ⟨0x77, 0xF7, [], fun op _ _ => .edNop op⟩,
    ⟨0xA0, 0xFF, [], fun _ _ _ => .ldi⟩,
    ⟨0xA1, 0xFF, [], fun _ _ _ => .cpi⟩,
    ⟨0xA2, 0xFF, [], fun _ _ _ => .ini⟩ ] ++
  [ ⟨0xA3, 0xFF, [], fun _ _ _ => .outi⟩,
    ⟨0xA8, 0xFF, [], fun _ _ _ => .ldd⟩,
    ⟨0xA9, 0xFF, [], fun _ _ _ => .cpd⟩,
    ⟨0xAA, 0xFF, [], fun _ _ _ => .ind⟩,
    ⟨0xAB, 0xFF, [], fun _ _ _ => .outd⟩,
    ⟨0xB0, 0xFF, [], fun _ _ _ => .ldir⟩,
    ⟨0xB1, 0xFF, [], fun _ _ _ => .cpir⟩,
    ⟨0xB2, 0xFF, [], fun _ _ _ => .inir⟩,
    ⟨0xB3, 0xFF, [], fun _ _ _ => .otir⟩,
    ⟨0xB8, 0xFF, [], fun _ _ _ => .lddr⟩,
    ⟨0xB9, 0xFF, [], fun _ _ _ => .cpdr⟩,
    ⟨0xBA, 0xFF, [], fun _ _ _ => .indr⟩ ] ++
  [ ⟨0xBB, 0xFF, [], fun _ _ _ => .otdr⟩,
    ⟨0x00, 0xC0, [], fun op _ _ => .edNop op⟩,
    ⟨0x80, 0xE0, [], fun op _ _ => .edNop op⟩,
    ⟨0xA4, 0xFC, [], fun op _ _ => .edNop op⟩,
    ⟨0xAC, 0xFC, [], fun op _ _ => .edNop op⟩,
    ⟨0xB4, 0xFC, [], fun op _ _ => .edNop op⟩,
    ⟨0xBC, 0xFC, [], fun op _ _ => .edNop op⟩,
    ⟨0xC0, 0xC0, [], fun op _ _ => .edNop op⟩ ]

/-- The DD/FD domain (R155), for the index register the prefix selected. -/
def indexRows (x : IndexReg) : List Row :=
  [ ⟨0x09, 0xCF, [], fun op _ _ => .addXRp x (IndexPair.ofCode (fieldP op))⟩,
    ⟨0x21, 0xFF, [], fun _ n1 n2 => .ldXNn x (mk16 n2 n1)⟩,
    ⟨0x22, 0xFF, [], fun _ n1 n2 => .ldMemX x (mk16 n2 n1)⟩,
    ⟨0x23, 0xFF, [], fun _ _ _ => .incX x⟩,
    ⟨0x24, 0xFF, [], fun _ _ _ => .incXh x⟩,
    ⟨0x25, 0xFF, [], fun _ _ _ => .decXh x⟩,
    ⟨0x26, 0xFF, [], fun _ n1 _ => .ldXhN x n1⟩,
    ⟨0x2A, 0xFF, [], fun _ n1 n2 => .ldXMem x (mk16 n2 n1)⟩,
    ⟨0x2B, 0xFF, [], fun _ _ _ => .decX x⟩,
    ⟨0x2C, 0xFF, [], fun _ _ _ => .incXl x⟩,
    ⟨0x2D, 0xFF, [], fun _ _ _ => .decXl x⟩,
    ⟨0x2E, 0xFF, [], fun _ n1 _ => .ldXlN x n1⟩ ] ++
  [ ⟨0x34, 0xFF, [], fun _ n1 _ => .incXd x n1⟩,
    ⟨0x35, 0xFF, [], fun _ n1 _ => .decXd x n1⟩,
    ⟨0x36, 0xFF, [], fun _ n1 n2 => .ldXdN x n1 n2⟩,
    ⟨0x44, 0xC7, [0x64, 0x6C, 0x74], fun op _ _ => .ldRXh x (Reg8.ofCode (fieldY op))⟩,
    ⟨0x45, 0xC7, [0x65, 0x6D, 0x75], fun op _ _ => .ldRXl x (Reg8.ofCode (fieldY op))⟩,
    ⟨0x46, 0xC7, [0x76], fun op n1 _ => .ldRXd x n1 (Reg8.ofCode (fieldY op))⟩,
    ⟨0x60, 0xF8, [0x66], fun op _ _ => .ldXhS x (IndexSrc.ofCode (fieldZ op))⟩,
    ⟨0x68, 0xF8, [0x6E], fun op _ _ => .ldXlS x (IndexSrc.ofCode (fieldZ op))⟩,
    ⟨0x70, 0xF8, [0x76], fun op n1 _ => .ldXdR x n1 (Reg8.ofCode (fieldZ op))⟩,
    ⟨0x84, 0xFF, [], fun _ _ _ => .addXh x⟩,
    ⟨0x85, 0xFF, [], fun _ _ _ => .addXl x⟩,
    ⟨0x86, 0xFF, [], fun _ n1 _ => .addXd x n1⟩ ] ++
  [ ⟨0x8C, 0xFF, [], fun _ _ _ => .adcXh x⟩,
    ⟨0x8D, 0xFF, [], fun _ _ _ => .adcXl x⟩,
    ⟨0x8E, 0xFF, [], fun _ n1 _ => .adcXd x n1⟩,
    ⟨0x94, 0xFF, [], fun _ _ _ => .subXh x⟩,
    ⟨0x95, 0xFF, [], fun _ _ _ => .subXl x⟩,
    ⟨0x96, 0xFF, [], fun _ n1 _ => .subXd x n1⟩,
    ⟨0x9C, 0xFF, [], fun _ _ _ => .sbcXh x⟩,
    ⟨0x9D, 0xFF, [], fun _ _ _ => .sbcXl x⟩,
    ⟨0x9E, 0xFF, [], fun _ n1 _ => .sbcXd x n1⟩,
    ⟨0xA4, 0xFF, [], fun _ _ _ => .andXh x⟩,
    ⟨0xA5, 0xFF, [], fun _ _ _ => .andXl x⟩,
    ⟨0xA6, 0xFF, [], fun _ n1 _ => .andXd x n1⟩ ] ++
  [ ⟨0xAC, 0xFF, [], fun _ _ _ => .xorXh x⟩,
    ⟨0xAD, 0xFF, [], fun _ _ _ => .xorXl x⟩,
    ⟨0xAE, 0xFF, [], fun _ n1 _ => .xorXd x n1⟩,
    ⟨0xB4, 0xFF, [], fun _ _ _ => .orXh x⟩,
    ⟨0xB5, 0xFF, [], fun _ _ _ => .orXl x⟩,
    ⟨0xB6, 0xFF, [], fun _ n1 _ => .orXd x n1⟩,
    ⟨0xBC, 0xFF, [], fun _ _ _ => .cpXh x⟩,
    ⟨0xBD, 0xFF, [], fun _ _ _ => .cpXl x⟩,
    ⟨0xBE, 0xFF, [], fun _ n1 _ => .cpXd x n1⟩,
    ⟨0xCB, 0xFF, [], fun _ n1 _ => .prefixXCB x n1⟩,
    ⟨0xE1, 0xFF, [], fun _ _ _ => .popX x⟩,
    ⟨0xE3, 0xFF, [], fun _ _ _ => .exSpX x⟩ ] ++
  [ ⟨0xE5, 0xFF, [], fun _ _ _ => .pushX x⟩,
    ⟨0xE9, 0xFF, [], fun _ _ _ => .jpX x⟩,
    ⟨0xF9, 0xFF, [], fun _ _ _ => .ldSpX x⟩,
    ⟨0x00, 0x00, indexSet, fun op _ _ => .ddFallback x op⟩ ]

/-- The DD/FD-CB domain (R156), for the selected index register and the displacement already read. -/
def indexCBRows (x : IndexReg) (d : Byte) : List Row :=
  [ ⟨0x06, 0xFF, [], fun _ _ _ => .rlcXd x d⟩,
    ⟨0x00, 0xF8, [0x06], fun op _ _ => .rlcXdR x d (Reg8.ofCode (fieldZ op))⟩,
    ⟨0x0E, 0xFF, [], fun _ _ _ => .rrcXd x d⟩,
    ⟨0x08, 0xF8, [0x0E], fun op _ _ => .rrcXdR x d (Reg8.ofCode (fieldZ op))⟩,
    ⟨0x16, 0xFF, [], fun _ _ _ => .rlXd x d⟩,
    ⟨0x10, 0xF8, [0x16], fun op _ _ => .rlXdR x d (Reg8.ofCode (fieldZ op))⟩,
    ⟨0x1E, 0xFF, [], fun _ _ _ => .rrXd x d⟩,
    ⟨0x18, 0xF8, [0x1E], fun op _ _ => .rrXdR x d (Reg8.ofCode (fieldZ op))⟩,
    ⟨0x26, 0xFF, [], fun _ _ _ => .slaXd x d⟩,
    ⟨0x20, 0xF8, [0x26], fun op _ _ => .slaXdR x d (Reg8.ofCode (fieldZ op))⟩,
    ⟨0x2E, 0xFF, [], fun _ _ _ => .sraXd x d⟩,
    ⟨0x28, 0xF8, [0x2E], fun op _ _ => .sraXdR x d (Reg8.ofCode (fieldZ op))⟩ ] ++
  [ ⟨0x36, 0xFF, [], fun _ _ _ => .sllXd x d⟩,
    ⟨0x30, 0xF8, [0x36], fun op _ _ => .sllXdR x d (Reg8.ofCode (fieldZ op))⟩,
    ⟨0x3E, 0xFF, [], fun _ _ _ => .srlXd x d⟩,
    ⟨0x38, 0xF8, [0x3E], fun op _ _ => .srlXdR x d (Reg8.ofCode (fieldZ op))⟩,
    ⟨0x40, 0xC0, [], fun op _ _ => .bitXd x d (fieldY op) (fieldZ op)⟩,
    ⟨0x86, 0xC7, [], fun op _ _ => .resXd x d (fieldY op)⟩,
    ⟨0x80, 0xC0, [0x86, 0x8E, 0x96, 0x9E, 0xA6, 0xAE, 0xB6, 0xBE], fun op _ _ => .resXdR x d (fieldY op) (Reg8.ofCode (fieldZ op))⟩,
    ⟨0xC6, 0xC7, [], fun op _ _ => .setXd x d (fieldY op)⟩,
    ⟨0xC0, 0xC0, [0xC6, 0xCE, 0xD6, 0xDE, 0xE6, 0xEE, 0xF6, 0xFE], fun op _ _ => .setXdR x d (fieldY op) (Reg8.ofCode (fieldZ op))⟩ ]

/-- The rows of a domain. -/
def rowsOf : Domain → List Row
  | .base => baseRows
  | .cb => cbRows
  | .ed => edRows
  | .index x => indexRows x
  | .indexCB x d => indexCBRows x d

/-- The instruction of the first row that the byte hits. Every byte of every domain hits exactly one row (R162, R168), so
the last line is never reached: it makes the function total. -/
def selectRow (op n1 n2 : Byte) : List Row → Instr
  | row :: rest => if row.hits op then row.build op n1 n2 else selectRow op n1 n2 rest
  | [] => .nop

/-- Decode in a domain: the dispatching byte and the two bytes after it give the instruction (R162). A row with fewer
operand bytes ignores the rest. -/
def decodeOp (dom : Domain) (op n1 n2 : Byte) : Instr := selectRow op n1 n2 (rowsOf dom)

/-- The domain in which the instruction's next dispatching byte is decoded, for the rows that are prefixes: after CB
and ED the CB and ED domains, after DD and FD the DD/FD domain, after DD/FD CB the DD/FD-CB domain (R162, R165); a DD/FD
prefix before any other byte is ignored and the same byte goes through the unprefixed domain (R163). -/
def Instr.continues : Instr → Option Domain
  | .prefixCB => some .cb
  | .prefixED => some .ed
  | .prefixDD => some (.index .ix)
  | .prefixFD => some (.index .iy)
  | .prefixXCB x d => some (.indexCB x d)
  | .ddFallback _ _ => some .base
  | .nop | .ldRpNn _ _ | .ldBcA | .incRp _ | .incR _ | .decR _ | .ldRN _ _ | .rlca | .exAfAf | .addHlRp _
  | .ldABc | .decRp _ | .rrca | .djnz _ | .ldDeA | .rla | .jr _ | .ldADe | .rra | .jrCc _ _ | .ldMemHl _ | .daa
  | .ldHlMem _ | .cpl | .ldMemA _ | .incHl | .decHl | .ldHlN _ | .scf | .ldAMem _ | .ccf | .ldRR _ _ | .ldRHl _
  | .ldHlR _ | .halt | .addR _ | .addHl | .addN _ | .adcR _ | .adcHl | .adcN _ | .subR _ | .subHl | .subN _
  | .sbcR _ | .sbcHl | .sbcN _ | .andR _ | .andHl | .andN _ | .xorR _ | .xorHl | .xorN _ | .orR _ | .orHl
  | .orN _ | .cpR _ | .cpHl | .cpN _ | .retCc _ | .popQq _ | .jpCc _ _ | .jp _ | .callCc _ _ | .pushQq _
  | .rst _ | .ret | .call _ | .outNA _ | .exx | .inAN _ | .exSpHl | .jpHl | .exDeHl | .di | .ldSpHl | .ei
  | .rlcR _ | .rlcHl | .rrcR _ | .rrcHl | .rlR _ | .rlHl | .rrR _ | .rrHl | .slaR _ | .slaHl | .sraR _ | .sraHl
  | .sllR _ | .sllHl | .srlR _ | .srlHl | .bitR _ _ | .bitHl _ | .resR _ _ | .resHl _ | .setR _ _ | .setHl _
  | .inRC _ | .inC | .outCR _ | .outC0 | .sbcHlRp _ | .adcHlRp _ | .ldMemRp _ _ | .ldRpMem _ _ | .neg _
  | .retn _ | .reti | .im0 _ | .im1 _ | .im2 _ | .ldIA | .ldRefreshA | .ldAI | .ldARefresh | .rrd | .rld
  | .edNop _ | .ldi | .cpi | .ini | .outi | .ldd | .cpd | .ind | .outd | .ldir | .cpir | .inir | .otir | .lddr
  | .cpdr | .indr | .otdr | .addXRp _ _ | .ldXNn _ _ | .ldMemX _ _ | .incX _ | .incXh _ | .decXh _ | .ldXhN _ _
  | .ldXMem _ _ | .decX _ | .incXl _ | .decXl _ | .ldXlN _ _ | .incXd _ _ | .decXd _ _ | .ldXdN _ _ _
  | .ldRXh _ _ | .ldRXl _ _ | .ldRXd _ _ _ | .ldXhS _ _ | .ldXlS _ _ | .ldXdR _ _ _ | .addXh _ | .addXl _
  | .addXd _ _ | .adcXh _ | .adcXl _ | .adcXd _ _ | .subXh _ | .subXl _ | .subXd _ _ | .sbcXh _ | .sbcXl _
  | .sbcXd _ _ | .andXh _ | .andXl _ | .andXd _ _ | .xorXh _ | .xorXl _ | .xorXd _ _ | .orXh _ | .orXl _
  | .orXd _ _ | .cpXh _ | .cpXl _ | .cpXd _ _ | .popX _ | .exSpX _ | .pushX _ | .jpX _ | .ldSpX _ | .rlcXd _ _
  | .rlcXdR _ _ _ | .rrcXd _ _ | .rrcXdR _ _ _ | .rlXd _ _ | .rlXdR _ _ _ | .rrXd _ _ | .rrXdR _ _ _
  | .slaXd _ _ | .slaXdR _ _ _ | .sraXd _ _ | .sraXdR _ _ _ | .sllXd _ _ | .sllXdR _ _ _ | .srlXd _ _
  | .srlXdR _ _ _ | .bitXd _ _ _ _ | .resXd _ _ _ | .resXdR _ _ _ _ | .setXd _ _ _ | .setXdR _ _ _ _ => none

/-! ## The encoder -/

/-- Register codes (R143). -/
def Reg8.code : Reg8 → BitVec 3
  | .b => 0 | .c => 1 | .d => 2 | .e => 3 | .h => 4 | .l => 5 | .a => 7

/-- Pair codes rp (R144). -/
def RegPair.code : RegPair → BitVec 2
  | .bc => 0 | .de => 1 | .hl => 2 | .sp => 3

/-- Pair codes qq (R144). -/
def StackPair.code : StackPair → BitVec 2
  | .bc => 0 | .de => 1 | .hl => 2 | .af => 3

/-- Pair codes under a DD/FD prefix (R144, R422). -/
def IndexPair.code : IndexPair → BitVec 2
  | .bc => 0 | .de => 1 | .x => 2 | .sp => 3

/-- Source codes of LD XH,s and LD XL,s (R216, R217). -/
def IndexSrc.code : IndexSrc → BitVec 3
  | .b => 0 | .c => 1 | .d => 2 | .e => 3 | .xh => 4 | .xl => 5 | .a => 7

/-- Condition codes (R145). -/
def Cond.code : Cond → BitVec 3
  | .nz => 0 | .z => 1 | .nc => 2 | .c => 3 | .po => 4 | .pe => 5 | .p => 6 | .m => 7

/-- The prefix byte that selects an index register (R150). -/
def IndexReg.byte : IndexReg → Byte
  | .ix => 0xDD
  | .iy => 0xFD

/-- An opcode pattern with field y filled in. -/
def opY (pattern : Byte) (y : BitVec 3) : Byte := pattern ||| (y.setWidth 8 <<< 3)
/-- An opcode pattern with field z filled in. -/
def opZ (pattern : Byte) (z : BitVec 3) : Byte := pattern ||| z.setWidth 8
/-- An opcode pattern with field p filled in. -/
def opP (pattern : Byte) (p : BitVec 2) : Byte := pattern ||| (p.setWidth 8 <<< 4)

/-- The domain in which an instruction's row stands. -/
def Instr.domain : Instr → Domain
  | .nop | .ldRpNn _ _ | .ldBcA | .incRp _ | .incR _ | .decR _ | .ldRN _ _ | .rlca | .exAfAf | .addHlRp _
  | .ldABc | .decRp _ | .rrca | .djnz _ | .ldDeA | .rla | .jr _ | .ldADe | .rra | .jrCc _ _ | .ldMemHl _ | .daa
  | .ldHlMem _ | .cpl | .ldMemA _ | .incHl | .decHl | .ldHlN _ | .scf | .ldAMem _ | .ccf | .ldRR _ _ | .ldRHl _
  | .ldHlR _ | .halt | .addR _ | .addHl | .addN _ | .adcR _ | .adcHl | .adcN _ | .subR _ | .subHl | .subN _
  | .sbcR _ | .sbcHl | .sbcN _ | .andR _ | .andHl | .andN _ | .xorR _ | .xorHl | .xorN _ | .orR _ | .orHl
  | .orN _ | .cpR _ | .cpHl | .cpN _ | .retCc _ | .popQq _ | .jpCc _ _ | .jp _ | .callCc _ _ | .pushQq _
  | .rst _ | .ret | .prefixCB | .call _ | .outNA _ | .exx | .inAN _ | .prefixDD | .exSpHl | .jpHl | .exDeHl
  | .prefixED | .di | .ldSpHl | .ei | .prefixFD => .base
  | .rlcR _ | .rlcHl | .rrcR _ | .rrcHl | .rlR _ | .rlHl | .rrR _ | .rrHl | .slaR _ | .slaHl | .sraR _ | .sraHl
  | .sllR _ | .sllHl | .srlR _ | .srlHl | .bitR _ _ | .bitHl _ | .resR _ _ | .resHl _ | .setR _ _ | .setHl _ => .cb
  | .inRC _ | .inC | .outCR _ | .outC0 | .sbcHlRp _ | .adcHlRp _ | .ldMemRp _ _ | .ldRpMem _ _ | .neg _
  | .retn _ | .reti | .im0 _ | .im1 _ | .im2 _ | .ldIA | .ldRefreshA | .ldAI | .ldARefresh | .rrd | .rld
  | .edNop _ | .ldi | .cpi | .ini | .outi | .ldd | .cpd | .ind | .outd | .ldir | .cpir | .inir | .otir | .lddr
  | .cpdr | .indr | .otdr => .ed
  | .addXRp x _ | .ldXNn x _ | .ldMemX x _ | .incX x | .incXh x | .decXh x | .ldXhN x _ | .ldXMem x _ | .decX x
  | .incXl x | .decXl x | .ldXlN x _ | .incXd x _ | .decXd x _ | .ldXdN x _ _ | .ldRXh x _ | .ldRXl x _
  | .ldRXd x _ _ | .ldXhS x _ | .ldXlS x _ | .ldXdR x _ _ | .addXh x | .addXl x | .addXd x _ | .adcXh x
  | .adcXl x | .adcXd x _ | .subXh x | .subXl x | .subXd x _ | .sbcXh x | .sbcXl x | .sbcXd x _ | .andXh x
  | .andXl x | .andXd x _ | .xorXh x | .xorXl x | .xorXd x _ | .orXh x | .orXl x | .orXd x _ | .cpXh x
  | .cpXl x | .cpXd x _ | .prefixXCB x _ | .popX x | .exSpX x | .pushX x | .jpX x | .ldSpX x | .ddFallback x _ => .index x
  | .rlcXd x d | .rlcXdR x d _ | .rrcXd x d | .rrcXdR x d _ | .rlXd x d | .rlXdR x d _ | .rrXd x d
  | .rrXdR x d _ | .slaXd x d | .slaXdR x d _ | .sraXd x d | .sraXdR x d _ | .sllXd x d | .sllXdR x d _
  | .srlXd x d | .srlXdR x d _ | .bitXd x d _ _ | .resXd x d _ | .resXdR x d _ _ | .setXd x d _
  | .setXdR x d _ _ => .indexCB x d

/-- The row's own bytes: its dispatching byte and the operand bytes after it, from the `encoding` column of the opcode
table. The bytes that lead into the domain are `Domain.lead`. -/
def Instr.rowBytes : Instr → List Byte
  | .nop => [0x00]
  | .ldRpNn rp nn => [opP 0x01 rp.code, lo8 nn, hi8 nn]
  | .ldBcA => [0x02]
  | .incRp rp => [opP 0x03 rp.code]
  | .incR r => [opY 0x04 r.code]
  | .decR r => [opY 0x05 r.code]
  | .ldRN r n => [opY 0x06 r.code, n]
  | .rlca => [0x07]
  | .exAfAf => [0x08]
  | .addHlRp rp => [opP 0x09 rp.code]
  | .ldABc => [0x0A]
  | .decRp rp => [opP 0x0B rp.code]
  | .rrca => [0x0F]
  | .djnz e => [0x10, e]
  | .ldDeA => [0x12]
  | .rla => [0x17]
  | .jr e => [0x18, e]
  | .ldADe => [0x1A]
  | .rra => [0x1F]
  | .jrCc cc e => [opY 0x20 cc.code, e]
  | .ldMemHl nn => [0x22, lo8 nn, hi8 nn]
  | .daa => [0x27]
  | .ldHlMem nn => [0x2A, lo8 nn, hi8 nn]
  | .cpl => [0x2F]
  | .ldMemA nn => [0x32, lo8 nn, hi8 nn]
  | .incHl => [0x34]
  | .decHl => [0x35]
  | .ldHlN n => [0x36, n]
  | .scf => [0x37]
  | .ldAMem nn => [0x3A, lo8 nn, hi8 nn]
  | .ccf => [0x3F]
  | .ldRR r s => [opZ (opY 0x40 r.code) s.code]
  | .ldRHl r => [opY 0x46 r.code]
  | .ldHlR r => [opZ 0x70 r.code]
  | .halt => [0x76]
  | .addR r => [opZ 0x80 r.code]
  | .addHl => [0x86]
  | .addN n => [0xC6, n]
  | .adcR r => [opZ 0x88 r.code]
  | .adcHl => [0x8E]
  | .adcN n => [0xCE, n]
  | .subR r => [opZ 0x90 r.code]
  | .subHl => [0x96]
  | .subN n => [0xD6, n]
  | .sbcR r => [opZ 0x98 r.code]
  | .sbcHl => [0x9E]
  | .sbcN n => [0xDE, n]
  | .andR r => [opZ 0xA0 r.code]
  | .andHl => [0xA6]
  | .andN n => [0xE6, n]
  | .xorR r => [opZ 0xA8 r.code]
  | .xorHl => [0xAE]
  | .xorN n => [0xEE, n]
  | .orR r => [opZ 0xB0 r.code]
  | .orHl => [0xB6]
  | .orN n => [0xF6, n]
  | .cpR r => [opZ 0xB8 r.code]
  | .cpHl => [0xBE]
  | .cpN n => [0xFE, n]
  | .retCc cc => [opY 0xC0 cc.code]
  | .popQq qq => [opP 0xC1 qq.code]
  | .jpCc cc nn => [opY 0xC2 cc.code, lo8 nn, hi8 nn]
  | .jp nn => [0xC3, lo8 nn, hi8 nn]
  | .callCc cc nn => [opY 0xC4 cc.code, lo8 nn, hi8 nn]
  | .pushQq qq => [opP 0xC5 qq.code]
  | .rst t => [opY 0xC7 t]
  | .ret => [0xC9]
  | .prefixCB => [0xCB]
  | .call nn => [0xCD, lo8 nn, hi8 nn]
  | .outNA n => [0xD3, n]
  | .exx => [0xD9]
  | .inAN n => [0xDB, n]
  | .prefixDD => [0xDD]
  | .exSpHl => [0xE3]
  | .jpHl => [0xE9]
  | .exDeHl => [0xEB]
  | .prefixED => [0xED]
  | .di => [0xF3]
  | .ldSpHl => [0xF9]
  | .ei => [0xFB]
  | .prefixFD => [0xFD]
  | .rlcR r => [opZ 0x00 r.code]
  | .rlcHl => [0x06]
  | .rrcR r => [opZ 0x08 r.code]
  | .rrcHl => [0x0E]
  | .rlR r => [opZ 0x10 r.code]
  | .rlHl => [0x16]
  | .rrR r => [opZ 0x18 r.code]
  | .rrHl => [0x1E]
  | .slaR r => [opZ 0x20 r.code]
  | .slaHl => [0x26]
  | .sraR r => [opZ 0x28 r.code]
  | .sraHl => [0x2E]
  | .sllR r => [opZ 0x30 r.code]
  | .sllHl => [0x36]
  | .srlR r => [opZ 0x38 r.code]
  | .srlHl => [0x3E]
  | .bitR bit r => [opZ (opY 0x40 bit) r.code]
  | .bitHl bit => [opY 0x46 bit]
  | .resR bit r => [opZ (opY 0x80 bit) r.code]
  | .resHl bit => [opY 0x86 bit]
  | .setR bit r => [opZ (opY 0xC0 bit) r.code]
  | .setHl bit => [opY 0xC6 bit]
  | .inRC r => [opY 0x40 r.code]
  | .inC => [0x70]
  | .outCR r => [opY 0x41 r.code]
  | .outC0 => [0x71]
  | .sbcHlRp rp => [opP 0x42 rp.code]
  | .adcHlRp rp => [opP 0x4A rp.code]
  | .ldMemRp rp nn => [opP 0x43 rp.code, lo8 nn, hi8 nn]
  | .ldRpMem rp nn => [opP 0x4B rp.code, lo8 nn, hi8 nn]
  | .neg y => [opY 0x44 y]
  | .retn y => [opY 0x45 y]
  | .reti => [0x4D]
  | .im0 y => [opY 0x46 y]
  | .im1 y => [opY 0x46 y]
  | .im2 y => [opY 0x46 y]
  | .ldIA => [0x47]
  | .ldRefreshA => [0x4F]
  | .ldAI => [0x57]
  | .ldARefresh => [0x5F]
  | .rrd => [0x67]
  | .rld => [0x6F]
  | .edNop op => [op]
  | .ldi => [0xA0]
  | .cpi => [0xA1]
  | .ini => [0xA2]
  | .outi => [0xA3]
  | .ldd => [0xA8]
  | .cpd => [0xA9]
  | .ind => [0xAA]
  | .outd => [0xAB]
  | .ldir => [0xB0]
  | .cpir => [0xB1]
  | .inir => [0xB2]
  | .otir => [0xB3]
  | .lddr => [0xB8]
  | .cpdr => [0xB9]
  | .indr => [0xBA]
  | .otdr => [0xBB]
  | .addXRp _ rp => [opP 0x09 rp.code]
  | .ldXNn _ nn => [0x21, lo8 nn, hi8 nn]
  | .ldMemX _ nn => [0x22, lo8 nn, hi8 nn]
  | .incX _ => [0x23]
  | .incXh _ => [0x24]
  | .decXh _ => [0x25]
  | .ldXhN _ n => [0x26, n]
  | .ldXMem _ nn => [0x2A, lo8 nn, hi8 nn]
  | .decX _ => [0x2B]
  | .incXl _ => [0x2C]
  | .decXl _ => [0x2D]
  | .ldXlN _ n => [0x2E, n]
  | .incXd _ d => [0x34, d]
  | .decXd _ d => [0x35, d]
  | .ldXdN _ d n => [0x36, d, n]
  | .ldRXh _ r => [opY 0x44 r.code]
  | .ldRXl _ r => [opY 0x45 r.code]
  | .ldRXd _ d r => [opY 0x46 r.code, d]
  | .ldXhS _ s => [opZ 0x60 s.code]
  | .ldXlS _ s => [opZ 0x68 s.code]
  | .ldXdR _ d r => [opZ 0x70 r.code, d]
  | .addXh _ => [0x84]
  | .addXl _ => [0x85]
  | .addXd _ d => [0x86, d]
  | .adcXh _ => [0x8C]
  | .adcXl _ => [0x8D]
  | .adcXd _ d => [0x8E, d]
  | .subXh _ => [0x94]
  | .subXl _ => [0x95]
  | .subXd _ d => [0x96, d]
  | .sbcXh _ => [0x9C]
  | .sbcXl _ => [0x9D]
  | .sbcXd _ d => [0x9E, d]
  | .andXh _ => [0xA4]
  | .andXl _ => [0xA5]
  | .andXd _ d => [0xA6, d]
  | .xorXh _ => [0xAC]
  | .xorXl _ => [0xAD]
  | .xorXd _ d => [0xAE, d]
  | .orXh _ => [0xB4]
  | .orXl _ => [0xB5]
  | .orXd _ d => [0xB6, d]
  | .cpXh _ => [0xBC]
  | .cpXl _ => [0xBD]
  | .cpXd _ d => [0xBE, d]
  | .prefixXCB _ d => [0xCB, d]
  | .popX _ => [0xE1]
  | .exSpX _ => [0xE3]
  | .pushX _ => [0xE5]
  | .jpX _ => [0xE9]
  | .ldSpX _ => [0xF9]
  | .ddFallback _ op => [op]
  | .rlcXd _ _ => [0x06]
  | .rlcXdR _ _ r => [opZ 0x00 r.code]
  | .rrcXd _ _ => [0x0E]
  | .rrcXdR _ _ r => [opZ 0x08 r.code]
  | .rlXd _ _ => [0x16]
  | .rlXdR _ _ r => [opZ 0x10 r.code]
  | .rrXd _ _ => [0x1E]
  | .rrXdR _ _ r => [opZ 0x18 r.code]
  | .slaXd _ _ => [0x26]
  | .slaXdR _ _ r => [opZ 0x20 r.code]
  | .sraXd _ _ => [0x2E]
  | .sraXdR _ _ r => [opZ 0x28 r.code]
  | .sllXd _ _ => [0x36]
  | .sllXdR _ _ r => [opZ 0x30 r.code]
  | .srlXd _ _ => [0x3E]
  | .srlXdR _ _ r => [opZ 0x38 r.code]
  | .bitXd _ _ bit z => [opZ (opY 0x40 bit) z]
  | .resXd _ _ bit => [opY 0x86 bit]
  | .resXdR _ _ bit r => [opZ (opY 0x80 bit) r.code]
  | .setXd _ _ bit => [opY 0xC6 bit]
  | .setXdR _ _ bit r => [opZ (opY 0xC0 bit) r.code]

/-- The bytes that lead from the unprefixed domain into a domain (R141, R165). -/
def Domain.lead : Domain → List Byte
  | .base => []
  | .cb => [0xCB]
  | .ed => [0xED]
  | .index x => [x.byte]
  | .indexCB x d => [x.byte, 0xCB, d]

/-- The whole encoding of an instruction: for an instruction that is no prefix, exactly the bytes the table's
`encoding` column gives it. -/
def encode (i : Instr) : List Byte := i.domain.lead ++ i.rowBytes

/-- How many operand bytes follow the row's dispatching byte. -/
def Instr.operandCount (i : Instr) : Nat := i.rowBytes.length - 1

/-! ## Decoding a byte stream -/

/-- Why a byte stream is not decoded: it ends inside an instruction, or its chain of prefix rows is longer than the
bound given (R164). No complete byte sequence is rejected (R168). -/
inductive DecodeError where
  | truncated
  | chainTooLong
  deriving DecidableEq, Repr

/-- Decode one row from a byte stream in a domain: the instruction and the bytes after its operands. -/
def decodeRow (dom : Domain) : List Byte → Except DecodeError (Instr × List Byte)
  | [] => .error .truncated
  | op :: rest =>
    let i := decodeOp dom op (rest.headD 0) (rest.tail.headD 0)
    if rest.length < i.operandCount then .error .truncated else .ok (i, rest.drop i.operandCount)

/-- Decode the chain of rows that one step runs: prefix rows and the row that ends the instruction (R162, R163). The
first argument bounds the number of rows. -/
def decodeChain : Nat → Domain → List Byte → Except DecodeError (List Instr × List Byte)
  | 0, _, _ => .error .chainTooLong
  | n + 1, dom, bytes =>
    match decodeRow dom bytes with
    | .error e => .error e
    | .ok (i, rest) =>
      match i.continues with
      | none => .ok ([i], rest)
      | some dom' =>
        match decodeChain n dom' (match i with | .ddFallback _ op => op :: rest | _ => rest) with
        | .error e => .error e
        | .ok (is, rest') => .ok (i :: is, rest')

/-- The bytes of a table word, the first byte in bits 7 to 0. -/
def bytesOfWord (count w : Nat) : List Byte :=
  (List.range count).map fun k => BitVec.ofNat 8 (w / 256 ^ k)

/-- The instruction of the last row whose dispatching byte lies among the first `given` bytes. -/
def lastRowWithin : Nat → Domain → List Byte → Nat → Option Instr
  | 0, _, _, _ => none
  | n + 1, dom, bytes, given =>
    match decodeRow dom bytes with
    | .error _ => none
    | .ok (i, rest) =>
      match i.continues with
      | none => some i
      | some dom' =>
        if 1 + i.operandCount < given then
          match i with
          | .ddFallback _ op => lastRowWithin n dom' (op :: rest) given
          | _ => lastRowWithin n dom' rest (given - 1 - i.operandCount)
        else some i

/-- The instruction that the decoder reads from a word numbered as spec/opcode_table.json numbers it (bit 0 is the least
significant bit of the first byte). The word's bytes, then zeros, go through the decoder from the unprefixed domain; a
word that ends at a prefix byte, or at the byte after an ignored DD or FD, names that prefix row, a longer one the row its
last dispatching byte selects (log 10). -/
def decodeTableWord (nbits w : Nat) : Option Instr :=
  let count := (nbits + 7) / 8
  lastRowWithin 12 .base (bytesOfWord count w ++ List.replicate 4 0) count

end Sys2Proof
end

