-- ==== Sys2Proof/Machine/State.lean ====
section
/-!
DEFINITION. The state of the machine as plain data: the aggregate of 10_state.md R40, the collaborator's memory and
port answers (20_memory.md R100, R103), and the event list that a step puts out (R106). Its reset value, and the
reasons a step can stop.
-/

namespace Sys2Proof.Machine

/-- The interrupt mode, "one of {IM0, IM1, IM2}" (R53). -/
inductive IntMode where
  | im0 | im1 | im2
  deriving DecidableEq, Repr

/-- One call a step makes to the collaborator, as the event list records it (R106). -/
inductive Event where
  /-- `Fetch(a)`: the instruction fetch call (R101, R161). -/
  | fetch (a : Word)
  /-- `MemRead(a, 1)`; a 16-bit read is two of these (R102). -/
  | memRead (a : Word)
  /-- `MemWrite(a, 1, v)`; a 16-bit write is two of these (R102). -/
  | memWrite (a : Word) (v : Byte)
  /-- `PortRead(p)` with its answer (R103). -/
  | portRead (p : Word) (v : Byte)
  /-- `PortWrite(p, v)` (R103). -/
  | portWrite (p : Word) (v : Byte)
  /-- `Contend(a, n)`, additional wait states (R105, R308). -/
  | contend (a : Word) (n : Nat)
  /-- `Notify(breakpoint)` (R18, R630). -/
  | notify
  /-- `Log(diag)`, whose text is free (R18, R641). -/
  | log
  deriving DecidableEq, Repr

/-- The collaborator's memory: (address, byte) pairs, addresses strictly rising, no entry equal to what an unlisted
address reads as (`Memory.wf`). -/
abbrev Memory := List Host.Cell

/-- The state. Fields `a` to `lastPC` and `bp` are the core state of R40; `mem` is `Mem` (R100), `portIn` and
`portReads` stand for `PortIn` (R103, log 3), `events` is the output of the latest step (R106, log 6). -/
structure State where
  /-- Accumulator A (R41). -/
  a : Byte
  /-- Flag register F: S Z 5 H 3 PV N C from bit 7 to bit 0 (R45). -/
  f : Byte
  b : Byte
  c : Byte
  d : Byte
  e : Byte
  h : Byte
  l : Byte
  /-- The shadow bank A' F' B' C' D' E' H' L' (R42). -/
  a' : Byte
  f' : Byte
  b' : Byte
  c' : Byte
  d' : Byte
  e' : Byte
  h' : Byte
  l' : Byte
  /-- Program counter (R43). -/
  pc : Word
  /-- Stack pointer (R44). -/
  sp : Word
  /-- Index registers (R44, R166). -/
  ix : Word
  iy : Word
  /-- Interrupt vector register I (R50). -/
  i : Byte
  /-- Refresh register R: a 7-bit counter, and bit 7 kept separately (R51). -/
  r : Byte
  /-- Interrupt enable flip-flops (R52). -/
  iff1 : Bool
  iff2 : Bool
  /-- Interrupt mode (R53). -/
  im : IntMode
  /-- EI delay (R54). -/
  pendingEI : Bool
  /-- HALT state (R56). -/
  halted : Bool
  /-- The latched NMI edge (R57, R650). -/
  activeNMI : Bool
  /-- The INT level (R57, R650). -/
  activeINT : Bool
  /-- MEMPTR (R58). -/
  memptr : Word
  /-- An instruction wrote the flags in this step (R55). -/
  flagQ : Bool
  /-- The previous instruction wrote the flags (R55). -/
  lastFlagQ : Bool
  /-- PC at the start of the most recent step (R59). -/
  lastPC : Word
  /-- The breakpoint matrix: the addresses whose flag is 1, strictly rising (R60, log 16). -/
  bp : List Nat
  /-- The collaborator's memory (R100). -/
  mem : Memory
  /-- Answers the host has given to the next port reads, oldest first (R103, log 3). -/
  portIn : List Byte
  /-- Port reads made so far: numbers the free values that answer when `portIn` is empty (log 3). -/
  portReads : Nat
  /-- The events of the latest step, in order (R106, log 6). -/
  events : List Event
  deriving DecidableEq, Repr

/-- The state of a newly created core: power-on reset applied to lastPC = 0 and no breakpoint (R65, R700, R702), with
nothing written in memory and no port answer given (log 1, log 3). -/
def State.reset : State where
  a := 0xFF
  f := 0xFF
  b := 0xFF
  c := 0xFF
  d := 0xFF
  e := 0xFF
  h := 0xFF
  l := 0xFF
  a' := 0xFF
  f' := 0xFF
  b' := 0xFF
  c' := 0xFF
  d' := 0xFF
  e' := 0xFF
  h' := 0xFF
  l' := 0xFF
  pc := 0x0000
  sp := 0xFFFF
  ix := 0xFFFF
  iy := 0xFFFF
  i := 0x00
  r := 0x00
  iff1 := false
  iff2 := false
  im := .im0
  pendingEI := false
  halted := false
  activeNMI := false
  activeINT := false
  memptr := 0xFFFF
  flagQ := false
  lastFlagQ := false
  lastPC := 0x0000
  bp := []
  mem := []
  portIn := []
  portReads := 0
  events := []

/-- Why a step stops with a fault. -/
inductive Fault where
  /-- The outcome Hang: the step has consumed 65,536 consecutive DD/FD bytes; final. Raised by `Machine.dispatch` alone,
  with the state at that point (R164, R600). Safe: the spec gives the step this outcome and no next state (log 5). -/
  | hang (s : State)
  deriving DecidableEq, Repr

/-- Why an instruction has no meaning. -/
inductive Refusal where
  /-- An instruction that the model does not give a meaning yet, by its mnemonic. Raised by no arm of `exec`: every row
  of the opcode table has its meaning. Safe. -/
  | notModelled (mnemonic : String)
  deriving DecidableEq, Repr

/-- What running an instruction, or a step, answers. -/
abbrev Result := Host.Outcome State Fault Refusal

end Sys2Proof.Machine
end

