-- ==== Sys2Proof/Machine/Memory.lean ====
section
/-!
DEFINITION. The memory list: one byte read and written, and the canonical form that makes equal memories equal data.
The keys are the 65,536 addresses of R108. And the breakpoint matrix as a list of addresses in the same form (R60).
-/

namespace Sys2Proof.Machine

/-- The byte at an address: the listed one, else what an unlisted address reads as (R100, log 1). -/
def Memory.read : Memory → Nat → Byte
  | [], _ => Config.unlistedByte
  | (k, v) :: rest, n => if k = n then v else Memory.read rest n

/-- List a byte at an address, before the first entry of a higher address, replacing an entry of the same address. -/
def Memory.insert : Memory → Nat → Byte → Memory
  | [], n, v => [(n, v)]
  | (k, w) :: rest, n, v =>
    if n < k then (n, v) :: (k, w) :: rest
    else if n = k then (n, v) :: rest
    else (k, w) :: Memory.insert rest n v

/-- Replace the byte at an address (R100). Writing what an unlisted address reads as removes the entry. -/
def Memory.write (m : Memory) (n : Nat) (v : Byte) : Memory :=
  if v = Config.unlistedByte then m.filter (fun cell => cell.1 != n) else Memory.insert m n v

/-- The canonical form: addresses below 65,536 and strictly rising, no entry equal to the unlisted byte. -/
def Memory.wf : Memory → Bool
  | [] => true
  | (k, v) :: rest =>
    decide (k < 65536) && v != Config.unlistedByte && rest.all (fun cell => decide (k < cell.1)) && Memory.wf rest

/-- Set the flag of an address in the breakpoint matrix (R631). -/
def bpInsert : List Nat → Nat → List Nat
  | [], n => [n]
  | k :: rest, n => if n < k then n :: k :: rest else if n = k then k :: rest else k :: bpInsert rest n

/-- Clear the flag of an address in the breakpoint matrix (R631). -/
def bpErase (m : List Nat) (n : Nat) : List Nat := m.filter (fun k => k != n)

/-- The canonical form of the breakpoint matrix: addresses below 65,536, strictly rising (R60). -/
def bpWf : List Nat → Bool
  | [] => true
  | k :: rest => decide (k < 65536) && rest.all (fun n => decide (k < n)) && bpWf rest

end Sys2Proof.Machine
end

