-- ==== Sys2Proof/Machine/Ops.lean ====
section
/-!
DEFINITION. The named operations over memory, ports, the stack and the fetch (00_scope.md R16, R17; 20_memory.md;
41_load16_exchange.md R262, R263), taking an interrupt and returning from one (60_exceptions.md).
-/

namespace Sys2Proof.Machine

/-! ## Events, memory and ports -/

/-- Record one event of the step (R106). -/
def State.emit (s : State) (ev : Event) : State := { s with events := s.events ++ [ev] }

/-- The byte of `Mem` at an address, with no event (R100). -/
def State.byteAt (s : State) (p : Word) : Byte := s.mem.read p.toNat

/-- `MemRead(a, 1)` (R16, R100). -/
def State.memRead (s : State) (p : Word) : Byte × State := (s.byteAt p, s.emit (.memRead p))

/-- `MemWrite(a, 1, v)` (R16, R100). -/
def State.memWrite (s : State) (p : Word) (v : Byte) : State :=
  { s with mem := s.mem.write p.toNat v, events := s.events ++ [.memWrite p v] }

/-- `MemRead(a, 2)`: the byte at a is the low one, the byte at u16(a + 1) the high one (R102). -/
def State.memRead16 (s : State) (p : Word) : Word × State :=
  let (lo, s1) := s.memRead p
  let (hi, s2) := s1.memRead (p + 1)
  (mk16 hi lo, s2)

/-- `MemWrite(a, 2, w)`: the low byte at a, then the high byte at u16(a + 1) (R102). -/
def State.memWrite16 (s : State) (p w : Word) : State := (s.memWrite p (lo8 w)).memWrite (p + 1) (hi8 w)

/-- What the oracle `PortIn` answers the next port read at `p`: the host's next answer, else a free value (R103, log 3). -/
def State.portAnswer (s : State) (p : Word) : Byte :=
  match s.portIn with
  | v :: _ => v
  | [] => Config.portAnswer s.portReads p

/-- `PortRead(p)` (R103). -/
def State.portRead (s : State) (p : Word) : Byte × State :=
  (s.portAnswer p,
   { s with portIn := s.portIn.tail, portReads := s.portReads + 1, events := s.events ++ [.portRead p (s.portAnswer p)] })

/-- `PortWrite(p, v)`: an event, no change of the core (R103). -/
def State.portWrite (s : State) (p : Word) (v : Byte) : State := s.emit (.portWrite p v)

/-! ## Fetching -/

/-- `incR()`: R counts in its low 7 bits, bit 7 stays (R51). -/
def State.incR (s : State) : State := { s with r := (s.r &&& 0x80) ||| ((s.r + 1) &&& 0x7F) }

/-- `M1()` without its answer: increment R, fetch the byte at PC, advance PC (R160 to R162). The byte fetched is
`s.byteAt s.pc`. -/
def State.m1 (s : State) : State :=
  let s1 := s.incR.emit (.fetch s.pc)
  { s1 with pc := s1.pc + 1 }

/-- Read one byte of the instruction at PC with `MemRead` and advance PC, as `imm8()` does (R17, R160, R161). -/
def State.fetchOperand (s : State) : State :=
  let s1 := (s.memRead s.pc).2
  { s1 with pc := s1.pc + 1 }

/-- Read `n` operand bytes (R17, R160, R161). -/
def State.fetchOperands (s : State) : Nat → State
  | 0 => s
  | n + 1 => s.fetchOperand.fetchOperands n

/-! ## Stack and control transfer -/

/-- `Push(w)`: the high byte at SP - 1, then the low byte at SP - 2 (R262). -/
def State.push (s : State) (w : Word) : State :=
  let s1 := { s with sp := s.sp - 1 }
  let s2 := s1.memWrite s1.sp (hi8 w)
  let s3 := { s2 with sp := s2.sp - 1 }
  s3.memWrite s3.sp (lo8 w)

/-- `Pop()`: the word at SP, then SP + 2 (R263). -/
def State.pop (s : State) : Word × State :=
  let (w, s1) := s.memRead16 s.sp
  (w, { s1 with sp := s1.sp + 2 })

/-- `PC <- target; MEMPTR <- target` (R500, R504, R611, R620). -/
def State.enter (s : State) (target : Word) : State := { s with pc := target, memptr := target }

/-- `PC <- Pop(); MEMPTR <- PC` (R509). -/
def State.popPc (s : State) : State :=
  let (w, s1) := s.pop
  s1.enter w

/-! ## Taking an interrupt, and returning from one -/

/-- A halted core leaves HALT and resumes after the HALT opcode (R611, R620, R670). -/
def State.leaveHalt (s : State) : State := if s.halted then { s with halted := false, pc := s.pc + 1 } else s

/-- What NMI and INT acceptance share, up to the handler's address: forget the flag history, count the acceptance in R,
leave HALT, clear IFF1, push PC (R611, R620, R655). -/
def State.interruptEntry (s : State) : State :=
  let s1 := { s.incR with lastFlagQ := false }
  let s2 := s1.leaveHalt
  let s3 := { s2 with iff1 := false }
  s3.push s3.pc

/-- `acceptNMI()`: clear the latch, make the timing fetch at PC whose byte is discarded, and enter 0x0066; IFF2 keeps
the value before (R611). -/
def State.acceptNMI (s : State) : State :=
  let s1 := { s with activeNMI := false }
  let s2 := s1.emit (.fetch s1.pc)
  s2.interruptEntry.enter 0x0066

/-- `acceptINT()`: clear both flip-flops and enter the word at I:0xFF in IM2, else 0x0038 (R620 to R622). -/
def State.acceptINT (s : State) : State :=
  let s1 := { s.interruptEntry with iff2 := false }
  match s1.im with
  | .im2 =>
    let (w, s2) := s1.memRead16 (mk16 s1.i 0xFF)
    s2.enter w
  | .im0 | .im1 => s1.enter 0x0038

/-- The condition under which INT is accepted when no NMI is (R604, R615). -/
def State.intAccepted (s : State) : Bool := s.activeINT && s.iff1 && !s.pendingEI

/-- The return of RETN and RETI: `IFF1 <- IFF2; PC <- Pop(); MEMPTR <- PC` (R520, R521). -/
def State.returnFromInterrupt (s : State) : State := ({ s with iff1 := s.iff2 }).popPc

end Sys2Proof.Machine
end

