-- ==== Sys2Proof/Machine/Operands.lean ====
section
/-!
DEFINITION. The operand forms of 30_encoding.md: registers, pairs, index registers and their halves, conditions,
memory operands, and the read-modify-write forms over them (R143 to R145, R150, R166, 45_rotate_bit.md R458).
-/

namespace Sys2Proof.Machine

/-! ## Registers (R41, R143) -/

/-- Read a register. -/
def State.getR8 (s : State) : Reg8 → Byte
  | .b => s.b | .c => s.c | .d => s.d | .e => s.e | .h => s.h | .l => s.l | .a => s.a

/-- Write a register. -/
def State.setR8 (s : State) (k : Reg8) (v : Byte) : State :=
  match k with
  | .b => { s with b := v }
  | .c => { s with c := v }
  | .d => { s with d := v }
  | .e => { s with e := v }
  | .h => { s with h := v }
  | .l => { s with l := v }
  | .a => { s with a := v }

/-! ## Pairs (R15, R144): the first-named register is the high byte -/

/-- BC. -/
def State.bc (s : State) : Word := mk16 s.b s.c
/-- DE. -/
def State.de (s : State) : Word := mk16 s.d s.e
/-- HL. -/
def State.hl (s : State) : Word := mk16 s.h s.l
/-- AF. -/
def State.af (s : State) : Word := mk16 s.a s.f

/-- Write BC. -/
def State.setBc (s : State) (w : Word) : State := { s with b := hi8 w, c := lo8 w }
/-- Write DE. -/
def State.setDe (s : State) (w : Word) : State := { s with d := hi8 w, e := lo8 w }
/-- Write HL. -/
def State.setHl (s : State) (w : Word) : State := { s with h := hi8 w, l := lo8 w }
/-- Write AF, all 8 bits of F; flagQ is not set (R265, D16). -/
def State.setAf (s : State) (w : Word) : State := { s with a := hi8 w, f := lo8 w }

/-- Read a pair by code rp. -/
def State.getRp (s : State) : RegPair → Word
  | .bc => s.bc | .de => s.de | .hl => s.hl | .sp => s.sp

/-- Write a pair by code rp. -/
def State.setRp (s : State) (k : RegPair) (w : Word) : State :=
  match k with
  | .bc => s.setBc w
  | .de => s.setDe w
  | .hl => s.setHl w
  | .sp => { s with sp := w }

/-- Read a pair by code qq. -/
def State.getQq (s : State) : StackPair → Word
  | .bc => s.bc | .de => s.de | .hl => s.hl | .af => s.af

/-- Write a pair by code qq. -/
def State.setQq (s : State) (k : StackPair) (w : Word) : State :=
  match k with
  | .bc => s.setBc w
  | .de => s.setDe w
  | .hl => s.setHl w
  | .af => s.setAf w

/-! ## Index registers and their halves (R150, R166) -/

/-- Read the selected index register X. -/
def State.getX (s : State) : IndexReg → Word
  | .ix => s.ix | .iy => s.iy

/-- Write X. -/
def State.setX (s : State) (x : IndexReg) (w : Word) : State :=
  match x with
  | .ix => { s with ix := w }
  | .iy => { s with iy := w }

/-- XH, the high byte of X. -/
def State.getXh (s : State) (x : IndexReg) : Byte := hi8 (s.getX x)
/-- XL, the low byte of X. -/
def State.getXl (s : State) (x : IndexReg) : Byte := lo8 (s.getX x)
/-- Write XH. -/
def State.setXh (s : State) (x : IndexReg) (v : Byte) : State := s.setX x (mk16 v (s.getXl x))
/-- Write XL. -/
def State.setXl (s : State) (x : IndexReg) (v : Byte) : State := s.setX x (mk16 (s.getXh x) v)

/-- The second operand of ADD X,rp (R144, R422). -/
def State.getIndexPair (s : State) (x : IndexReg) : IndexPair → Word
  | .bc => s.bc | .de => s.de | .x => s.getX x | .sp => s.sp

/-- The source of LD XH,s and LD XL,s (R216, R217). -/
def State.getIndexSrc (s : State) (x : IndexReg) : IndexSrc → Byte
  | .b => s.b | .c => s.c | .d => s.d | .e => s.e | .xh => s.getXh x | .xl => s.getXl x | .a => s.a

/-! ## Flags -/

/-- Write F as an instruction that computes flags does: flagQ is set (R55). -/
def State.setFlags (s : State) (f : Byte) : State := { s with f := f, flagQ := true }

/-- F.C. -/
def State.carry (s : State) : Bool := flag .c s.f

/-- The condition holds (R145). -/
def State.holds (s : State) : Cond → Bool
  | .nz => !flag .z s.f
  | .z => flag .z s.f
  | .nc => !flag .c s.f
  | .c => flag .c s.f
  | .po => !flag .pv s.f
  | .pe => flag .pv s.f
  | .p => !flag .s s.f
  | .m => flag .s s.f

/-! ## Memory operands -/

/-- The effective address `EA = u16(X + sext_8(d))` (R150, R151). -/
def State.ea (s : State) (x : IndexReg) (d : Byte) : Word := s.getX x + sext16 d

/-- Form the address of a (X+d) operand: `MEMPTR <- EA` (R165, R211, R356). -/
def State.indexed (s : State) (x : IndexReg) (d : Byte) : State := { s with memptr := s.ea x d }

/-- Read the (HL) operand (R143). -/
def State.readHl (s : State) : Byte × State := s.memRead s.hl

/-- Read the (X+d) operand (R211, R356). -/
def State.readXd (s : State) (x : IndexReg) (d : Byte) : Byte × State := (s.indexed x d).memRead (s.ea x d)

/-! ## Read-modify-write forms (R458, R371, R373). `g` computes the new value from the state and the old value, and the
state after its flag writes. -/

/-- What an instruction does with the value it reads. -/
abbrev Modify := State → Byte → Byte × State

/-- The form r. -/
def State.modifyR8 (s : State) (k : Reg8) (g : Modify) : State :=
  let (v, s1) := g s (s.getR8 k)
  s1.setR8 k v

/-- A byte of memory: read it, modify it, write it back to the same address (R112). -/
def State.modifyMem (s : State) (p : Word) (g : Modify) : State :=
  let (v, s1) := s.memRead p
  let (v', s2) := g s1 v
  s2.memWrite p v'

/-- The form (HL). -/
def State.modifyHl (s : State) (g : Modify) : State := s.modifyMem s.hl g

/-- The form (X+d). -/
def State.modifyXd (s : State) (x : IndexReg) (d : Byte) (g : Modify) : State :=
  (s.indexed x d).modifyMem (s.ea x d) g

/-- The form (X+d),r: the result also goes to the plain register r (R458). -/
def State.modifyXdR (s : State) (x : IndexReg) (d : Byte) (k : Reg8) (g : Modify) : State :=
  let (v, s1) := (s.indexed x d).memRead (s.ea x d)
  let (v', s2) := g s1 v
  (s2.memWrite (s.ea x d) v').setR8 k v'

/-- The form XH. -/
def State.modifyXh (s : State) (x : IndexReg) (g : Modify) : State :=
  let (v, s1) := g s (s.getXh x)
  s1.setXh x v

/-- The form XL. -/
def State.modifyXl (s : State) (x : IndexReg) (g : Modify) : State :=
  let (v, s1) := g s (s.getXl x)
  s1.setXl x v

end Sys2Proof.Machine
end

