-- ==== Sys2Proof/Machine/Cycle.lean ====
section
/-!
DEFINITION. The single-instruction entry point (60_exceptions.md R600) over a given meaning of the instructions: the
phases of a step, and `dispatch` (30_encoding.md R162), which runs the chain of rows of one instruction.
-/

namespace Sys2Proof.Machine

/-- The byte is a DD or FD prefix. -/
def isIndexByte (op : Byte) : Bool := op == 0xDD || op == 0xFD

/-- Run the row that a dispatching byte, already fetched, selects in a domain: read its operand bytes and run its
meaning `ex`. A row that ends the instruction gives the result; after a prefix row `k` goes on with the next domain and
its dispatching byte, which is the same byte for the DD/FD fallback and else the byte the prefix row fetched
(R161 to R163, R165). -/
def runRow (ex : Instr → State → Result) (dom : Domain) (op : Byte) (s : State)
    (k : Domain → Byte → State → Result) : Result :=
  let i := decodeOp dom op (s.byteAt s.pc) (s.byteAt (s.pc + 1))
  let s1 := s.fetchOperands i.operandCount
  match ex i s1 with
  | .next s2 =>
    match i.continues with
    | none => .next s2
    | some dom' => k dom' (if dom' = .base then op else s1.byteAt s1.pc) s2
  | .fault r => .fault r
  | .refused r => .refused r

/-- `dispatch(op)`: the unprefixed row of `op`; after a CB, ED, DD or FD prefix the row of the next byte in its domain;
after DD/FD CB the row of the final byte; after a DD/FD fallback `dispatch` of the same byte (R162, R163, R165). The first
argument is the number of DD/FD bytes the step may still consume: a chain that is longer ends the step with Hang (R164). -/
def dispatch (ex : Instr → State → Result) : Nat → Byte → State → Result
  | 0, op, s =>
    if isIndexByte op then .fault (.hang s)
    else runRow ex .base op s fun dom b s1 => runRow ex dom b s1 fun _ _ s2 => .next s2
  | n + 1, op, s =>
    runRow ex .base op s fun dom b s1 =>
      runRow ex dom b s1 fun dom' b' s2 =>
        match dom' with
        | .base => dispatch ex n b' s2
        | .cb | .ed | .index _ | .indexCB _ _ => runRow ex dom' b' s2 fun _ _ s3 => .next s3

/-- Phase 1: record `lastPC = PC` (R601). The event list of the step starts empty (R106). -/
def State.beginStep (s : State) : State := { s with lastPC := s.pc, events := [] }

/-- Phase 3: accept INT when its condition holds, and go on (R604, R615, R625). -/
def State.takeInt (s : State) : State := if s.intAccepted then s.acceptINT else s

/-- Phase 4: notify a breakpoint at PC (R630). -/
def State.checkBreakpoint (s : State) : State := if s.bp.contains s.pc.toNat then s.emit .notify else s

/-- Phases 5 and 6 before dispatch: fetch the first opcode byte and clear flagQ (R605). -/
def State.fetchOpcode (s : State) : State := { s.m1 with flagQ := false }

/-- Phase 7: `lastFlagQ <- flagQ`; clear pendingEI unless the first byte was EI (R606, D13). -/
def State.endStep (s : State) (op : Byte) : State :=
  { s with lastFlagQ := s.flagQ, pendingEI := s.pendingEI && op == 0xFB }

/-- The state from which the step fetches its first opcode byte, when no NMI is accepted (phases 1, 3, 4). -/
def State.atFetch (s : State) : State := s.beginStep.takeInt.checkBreakpoint

/-- One step (R600): an NMI acceptance that executes no instruction (R603), or phases 3 to 7. -/
def stepWith (ex : Instr → State → Result) (s : State) : Result :=
  if s.activeNMI then .next s.beginStep.acceptNMI
  else
    let s1 := s.atFetch
    let op := s1.byteAt s1.pc
    match dispatch ex (Config.chainLimit - 1) op s1.fetchOpcode with
    | .next s2 => .next (s2.endStep op)
    | .fault r => .fault r
    | .refused r => .refused r

/-- Write bytes to memory from an address on, wrapping at 0xFFFF, with no event: how the host places a program (log 4). -/
def State.loadBytes (s : State) (p : Word) : List Byte → State
  | [] => s
  | v :: rest => ({ s with mem := s.mem.write p.toNat v }).loadBytes (p + 1) rest

/-- Place a table word at PC, then zeros up to four bytes in all, and let no interrupt line be active, so that the next
step runs it (log 4, log 11). -/
def State.placeWord (s : State) (nbits w : Nat) : State :=
  let count := max ((nbits + 7) / 8) 4
  ({ s with activeNMI := false, activeINT := false }).loadBytes s.pc (bytesOfWord count (w % 2 ^ nbits))

end Sys2Proof.Machine
end

