-- ==== Sys2Proof/Machine/Alu16.lean ====
section
/-!
DEFINITION. 16-bit arithmetic (44_alu16.md).
-/

namespace Sys2Proof.Machine

/-- ADD HL,rp (R421). -/
def execAddHlRp (rp : RegPair) (s : State) : Result :=
  let o := add16 s.hl (s.getRp rp) s.f
  .next (({ s with memptr := s.hl + 1 }).setHl o.1 |>.setFlags o.2)

/-- ADD X,rp (R422). -/
def execAddXRp (x : IndexReg) (rp : IndexPair) (s : State) : Result :=
  let o := add16 (s.getX x) (s.getIndexPair x rp) s.f
  .next (({ s with memptr := s.getX x + 1 }).setX x o.1 |>.setFlags o.2)

/-- ADC HL,rp (R423). -/
def execAdcHlRp (rp : RegPair) (s : State) : Result :=
  let o := adc16 s.hl (s.getRp rp) s.carry
  .next (({ s with memptr := s.hl + 1 }).setHl o.1 |>.setFlags o.2)

/-- SBC HL,rp (R424). -/
def execSbcHlRp (rp : RegPair) (s : State) : Result :=
  let o := sbc16 s.hl (s.getRp rp) s.carry
  .next (({ s with memptr := s.hl + 1 }).setHl o.1 |>.setFlags o.2)

/-- INC rp (R425). -/
def execIncRp (rp : RegPair) (s : State) : Result := .next (s.setRp rp (s.getRp rp + 1))

/-- DEC rp (R426). -/
def execDecRp (rp : RegPair) (s : State) : Result := .next (s.setRp rp (s.getRp rp - 1))

/-- INC X (R427). -/
def execIncX (x : IndexReg) (s : State) : Result := .next (s.setX x (s.getX x + 1))

/-- DEC X (R428). -/
def execDecX (x : IndexReg) (s : State) : Result := .next (s.setX x (s.getX x - 1))

end Sys2Proof.Machine
end

