-- ==== Sys2Proof/Machine/Alu8.lean ====
section
/-!
DEFINITION. 8-bit arithmetic and logic (43_alu8.md).
-/

namespace Sys2Proof.Machine

/-! ## The eight accumulator operations -/

/-- The operations, in the order of their codes y = 0 to 7 (R146). -/
inductive AluOp where
  | add | adc | sub | sbc | and | xor | or | cp
  deriving DecidableEq, Repr

/-- The new A and F of an operation, from A, the operand and the carry-in (R350 to R353, R360 to R367). -/
def AluOp.compute (op : AluOp) (a x : Byte) (cin : Bool) : Byte × Byte :=
  match op with
  | .add => add8 a x false
  | .adc => add8 a x cin
  | .sub => sub8 a x false
  | .sbc => sub8 a x cin
  | .and => and8 a x
  | .xor => xor8 a x
  | .or => or8 a x
  | .cp => cp8 a x

/-- Run an operation on A and an operand already obtained (R356). -/
def State.alu (s : State) (op : AluOp) (x : Byte) : State :=
  let o := op.compute s.a x s.carry
  ({ s with a := o.1 }).setFlags o.2

/-- The form r (R356). -/
def State.aluR (s : State) (op : AluOp) (r : Reg8) : State := s.alu op (s.getR8 r)

/-- The form (HL) (R356). -/
def State.aluHl (s : State) (op : AluOp) : State :=
  let (x, s1) := s.readHl
  s1.alu op x

/-- The form (X+d) (R356). -/
def State.aluXd (s : State) (op : AluOp) (x : IndexReg) (d : Byte) : State :=
  let (v, s1) := s.readXd x d
  s1.alu op v

/-- ADD A,r (R360). -/
def execAddR (r : Reg8) (s : State) : Result := .next (s.aluR .add r)
/-- ADD A,(HL) (R360). -/
def execAddHl (s : State) : Result := .next (s.aluHl .add)
/-- ADD A,n (R360). -/
def execAddN (n : Byte) (s : State) : Result := .next (s.alu .add n)
/-- ADD A,(X+d) (R360). -/
def execAddXd (x : IndexReg) (d : Byte) (s : State) : Result := .next (s.aluXd .add x d)
/-- ADD A,XH (R360). -/
def execAddXh (x : IndexReg) (s : State) : Result := .next (s.alu .add (s.getXh x))
/-- ADD A,XL (R360). -/
def execAddXl (x : IndexReg) (s : State) : Result := .next (s.alu .add (s.getXl x))

/-- ADC A,r (R361). -/
def execAdcR (r : Reg8) (s : State) : Result := .next (s.aluR .adc r)
/-- ADC A,(HL) (R361). -/
def execAdcHl (s : State) : Result := .next (s.aluHl .adc)
/-- ADC A,n (R361). -/
def execAdcN (n : Byte) (s : State) : Result := .next (s.alu .adc n)
/-- ADC A,(X+d) (R361). -/
def execAdcXd (x : IndexReg) (d : Byte) (s : State) : Result := .next (s.aluXd .adc x d)
/-- ADC A,XH (R361). -/
def execAdcXh (x : IndexReg) (s : State) : Result := .next (s.alu .adc (s.getXh x))
/-- ADC A,XL (R361). -/
def execAdcXl (x : IndexReg) (s : State) : Result := .next (s.alu .adc (s.getXl x))

/-- SUB r (R362). -/
def execSubR (r : Reg8) (s : State) : Result := .next (s.aluR .sub r)
/-- SUB (HL) (R362). -/
def execSubHl (s : State) : Result := .next (s.aluHl .sub)
/-- SUB n (R362). -/
def execSubN (n : Byte) (s : State) : Result := .next (s.alu .sub n)
/-- SUB (X+d) (R362). -/
def execSubXd (x : IndexReg) (d : Byte) (s : State) : Result := .next (s.aluXd .sub x d)
/-- SUB XH (R362). -/
def execSubXh (x : IndexReg) (s : State) : Result := .next (s.alu .sub (s.getXh x))
/-- SUB XL (R362). -/
def execSubXl (x : IndexReg) (s : State) : Result := .next (s.alu .sub (s.getXl x))

/-- SBC A,r (R363). -/
def execSbcR (r : Reg8) (s : State) : Result := .next (s.aluR .sbc r)
/-- SBC A,(HL) (R363). -/
def execSbcHl (s : State) : Result := .next (s.aluHl .sbc)
/-- SBC A,n (R363). -/
def execSbcN (n : Byte) (s : State) : Result := .next (s.alu .sbc n)
/-- SBC A,(X+d) (R363). -/
def execSbcXd (x : IndexReg) (d : Byte) (s : State) : Result := .next (s.aluXd .sbc x d)
/-- SBC A,XH (R363). -/
def execSbcXh (x : IndexReg) (s : State) : Result := .next (s.alu .sbc (s.getXh x))
/-- SBC A,XL (R363). -/
def execSbcXl (x : IndexReg) (s : State) : Result := .next (s.alu .sbc (s.getXl x))

/-- AND r (R364). -/
def execAndR (r : Reg8) (s : State) : Result := .next (s.aluR .and r)
/-- AND (HL) (R364). -/
def execAndHl (s : State) : Result := .next (s.aluHl .and)
/-- AND n (R364). -/
def execAndN (n : Byte) (s : State) : Result := .next (s.alu .and n)
/-- AND (X+d) (R364). -/
def execAndXd (x : IndexReg) (d : Byte) (s : State) : Result := .next (s.aluXd .and x d)
/-- AND XH (R364). -/
def execAndXh (x : IndexReg) (s : State) : Result := .next (s.alu .and (s.getXh x))
/-- AND XL (R364). -/
def execAndXl (x : IndexReg) (s : State) : Result := .next (s.alu .and (s.getXl x))

/-- XOR r (R365). -/
def execXorR (r : Reg8) (s : State) : Result := .next (s.aluR .xor r)
/-- XOR (HL) (R365). -/
def execXorHl (s : State) : Result := .next (s.aluHl .xor)
/-- XOR n (R365). -/
def execXorN (n : Byte) (s : State) : Result := .next (s.alu .xor n)
/-- XOR (X+d) (R365). -/
def execXorXd (x : IndexReg) (d : Byte) (s : State) : Result := .next (s.aluXd .xor x d)
/-- XOR XH (R365). -/
def execXorXh (x : IndexReg) (s : State) : Result := .next (s.alu .xor (s.getXh x))
/-- XOR XL (R365). -/
def execXorXl (x : IndexReg) (s : State) : Result := .next (s.alu .xor (s.getXl x))

/-- OR r (R366). -/
def execOrR (r : Reg8) (s : State) : Result := .next (s.aluR .or r)
/-- OR (HL) (R366). -/
def execOrHl (s : State) : Result := .next (s.aluHl .or)
/-- OR n (R366). -/
def execOrN (n : Byte) (s : State) : Result := .next (s.alu .or n)
/-- OR (X+d) (R366). -/
def execOrXd (x : IndexReg) (d : Byte) (s : State) : Result := .next (s.aluXd .or x d)
/-- OR XH (R366). -/
def execOrXh (x : IndexReg) (s : State) : Result := .next (s.alu .or (s.getXh x))
/-- OR XL (R366). -/
def execOrXl (x : IndexReg) (s : State) : Result := .next (s.alu .or (s.getXl x))

/-- CP r (R367). -/
def execCpR (r : Reg8) (s : State) : Result := .next (s.aluR .cp r)
/-- CP (HL) (R367). -/
def execCpHl (s : State) : Result := .next (s.aluHl .cp)
/-- CP n (R367). -/
def execCpN (n : Byte) (s : State) : Result := .next (s.alu .cp n)
/-- CP (X+d) (R367). -/
def execCpXd (x : IndexReg) (d : Byte) (s : State) : Result := .next (s.aluXd .cp x d)
/-- CP XH (R367). -/
def execCpXh (x : IndexReg) (s : State) : Result := .next (s.alu .cp (s.getXh x))
/-- CP XL (R367). -/
def execCpXl (x : IndexReg) (s : State) : Result := .next (s.alu .cp (s.getXl x))

/-! ## Increment and decrement -/

/-- `inc8(v)` as a modification: the new value, and the state with its flags written (R354). -/
def incOp : Modify := fun s v => ((inc8 v s.f).1, s.setFlags (inc8 v s.f).2)
/-- `dec8(v)` as a modification (R355). -/
def decOp : Modify := fun s v => ((dec8 v s.f).1, s.setFlags (dec8 v s.f).2)

/-- INC r (R370). -/
def execIncR (r : Reg8) (s : State) : Result := .next (s.modifyR8 r incOp)
/-- INC (HL) (R371). -/
def execIncHl (s : State) : Result := .next (s.modifyHl incOp)
/-- INC (X+d) (R372). -/
def execIncXd (x : IndexReg) (d : Byte) (s : State) : Result := .next (s.modifyXd x d incOp)
/-- INC XH (R373). -/
def execIncXh (x : IndexReg) (s : State) : Result := .next (s.modifyXh x incOp)
/-- INC XL (R373). -/
def execIncXl (x : IndexReg) (s : State) : Result := .next (s.modifyXl x incOp)
/-- DEC r (R374). -/
def execDecR (r : Reg8) (s : State) : Result := .next (s.modifyR8 r decOp)
/-- DEC (HL) (R375). -/
def execDecHl (s : State) : Result := .next (s.modifyHl decOp)
/-- DEC (X+d) (R376). -/
def execDecXd (x : IndexReg) (d : Byte) (s : State) : Result := .next (s.modifyXd x d decOp)
/-- DEC XH (R377). -/
def execDecXh (x : IndexReg) (s : State) : Result := .next (s.modifyXh x decOp)
/-- DEC XL (R377). -/
def execDecXl (x : IndexReg) (s : State) : Result := .next (s.modifyXl x decOp)

/-! ## Accumulator specials -/

/-- Write A and F together (R380 to R382). -/
def State.setAccFlags (s : State) (o : Byte × Byte) : State := ({ s with a := o.1 }).setFlags o.2

/-- DAA (R380). -/
def execDaa (s : State) : Result := .next (s.setAccFlags (daa s.a s.f))
/-- CPL (R381). -/
def execCpl (s : State) : Result := .next (s.setAccFlags (cpl s.a s.f))
/-- NEG: the eight encodings have one effect (R382). -/
def execNeg (_ : BitVec 3) (s : State) : Result := .next (s.setAccFlags (neg8 s.a))
/-- SCF (R386). -/
def execScf (s : State) : Result := .next (s.setFlags (scfFlags s.a s.f s.lastFlagQ))
/-- CCF (R387). -/
def execCcf (s : State) : Result := .next (s.setFlags (ccfFlags s.a s.f s.lastFlagQ))

end Sys2Proof.Machine
end

