-- ==== Sys2Proof/Machine/Block.lean ====
section
/-!
DEFINITION. Block transfer, compare and I/O (42_block.md). One step runs one iteration.
-/

namespace Sys2Proof.Machine

/-! ## The four base operations. `step` is +1 for the I forms and -1 for the D forms (R300). -/

/-- LDI and LDD: copy a byte from (HL) to (DE), move both pointers, count BC down (R301, R302). -/
def State.blockTransfer (s : State) (step : Word) : State :=
  let (v, s1) := s.memRead s.hl
  let s2 := s1.memWrite s.de v
  let s3 := ((s2.setHl (s2.hl + step)).setDe (s2.de + step)).setBc (s2.bc - 1)
  s3.setFlags (transferFlags s.a v s.f (s3.bc != 0))

/-- CPI and CPD: compare A with (HL), move HL and MEMPTR, count BC down (R311, R312). -/
def State.blockCompare (s : State) (step : Word) : State :=
  let (v, s1) := s.memRead s.hl
  let s2 := (s1.setHl (s1.hl + step)).setBc (s1.bc - 1)
  ({ s2 with memptr := s2.memptr + step }).setFlags (compareFlags s.a v s.f (s2.bc != 0))

/-- INI and IND: read the port BC, with B before its decrement, to (HL) (R321, R322). -/
def State.blockIn (s : State) (step : Word) : State :=
  let (t, s1) := s.portRead s.bc
  let s2 := s1.memWrite s.hl t
  let s3 := { s2 with memptr := s.bc + step, b := s.b - 1 }
  let s4 := s3.setHl (s.hl + step)
  s4.setFlags (ioFlags s4.b t (t.toNat + (s.c + lo8 step).toNat))

/-- OUTI and OUTD: write (HL) to the port BC, with B after its decrement (R325, R326). -/
def State.blockOut (s : State) (step : Word) : State :=
  let s1 := { s with b := s.b - 1 }
  let (t, s2) := s1.memRead s.hl
  let s3 := s2.portWrite s2.bc t
  let s4 := ({ s3 with memptr := s3.bc + step }).setHl (s.hl + step)
  s4.setFlags (ioFlags s4.b t (t.toNat + s4.l.toNat))

/-! ## Repetition (R308) -/

/-- Roll PC back to the 0xED byte and request 5 extra wait states tied to an address (R308). -/
def State.rollBack (s : State) (p : Word) : State := ({ s with pc := s.pc - 2 }).emit (.contend p 5)

/-- The roll-back of LDIR, LDDR, CPIR and CPDR also writes MEMPTR (R308). -/
def State.rollBackMemptr (s : State) (p : Word) : State := ({ s with memptr := s.pc - 1 }).rollBack p

/-- LDIR and LDDR: repeat while BC is not 0 (R303, R304, R308). -/
def State.transferRepeat (s : State) (step : Word) : State :=
  let s1 := s.blockTransfer step
  if s1.bc != 0 then s1.rollBackMemptr s.de else s1

/-- CPIR and CPDR: repeat while BC is not 0 and the compare was not equal (R308, R313, R314). -/
def State.compareRepeat (s : State) (step : Word) : State :=
  let s1 := s.blockCompare step
  if s1.bc != 0 && !flag .z s1.f then s1.rollBackMemptr s.hl else s1

/-- INIR and INDR: repeat while B is not 0; no further MEMPTR write (R308, R323, R324, D21). -/
def State.inRepeat (s : State) (step : Word) : State :=
  let s1 := s.blockIn step
  if s1.b != 0 then s1.rollBack s.hl else s1

/-- OTIR and OTDR: repeat while B is not 0; the wait states are tied to BC after the decrement (R308, R327, R328). -/
def State.outRepeat (s : State) (step : Word) : State :=
  let s1 := s.blockOut step
  if s1.b != 0 then s1.rollBack s1.bc else s1

/-! ## The sixteen instructions (R300) -/

/-- LDI (R301). -/
def execLdi (s : State) : Result := .next (s.blockTransfer 1)
/-- LDD (R302). -/
def execLdd (s : State) : Result := .next (s.blockTransfer (-1))
/-- LDIR (R303). -/
def execLdir (s : State) : Result := .next (s.transferRepeat 1)
/-- LDDR (R304). -/
def execLddr (s : State) : Result := .next (s.transferRepeat (-1))
/-- CPI (R311). -/
def execCpi (s : State) : Result := .next (s.blockCompare 1)
/-- CPD (R312). -/
def execCpd (s : State) : Result := .next (s.blockCompare (-1))
/-- CPIR (R313). -/
def execCpir (s : State) : Result := .next (s.compareRepeat 1)
/-- CPDR (R314). -/
def execCpdr (s : State) : Result := .next (s.compareRepeat (-1))
/-- INI (R321). -/
def execIni (s : State) : Result := .next (s.blockIn 1)
/-- IND (R322). -/
def execInd (s : State) : Result := .next (s.blockIn (-1))
/-- INIR (R323). -/
def execInir (s : State) : Result := .next (s.inRepeat 1)
/-- INDR (R324). -/
def execIndr (s : State) : Result := .next (s.inRepeat (-1))
/-- OUTI (R325). -/
def execOuti (s : State) : Result := .next (s.blockOut 1)
/-- OUTD (R326). -/
def execOutd (s : State) : Result := .next (s.blockOut (-1))
/-- OTIR (R327). -/
def execOtir (s : State) : Result := .next (s.outRepeat 1)
/-- OTDR (R328). -/
def execOtdr (s : State) : Result := .next (s.outRepeat (-1))

end Sys2Proof.Machine
end

