-- ==== Sys2Proof/Machine/Control.lean ====
section
/-!
DEFINITION. Jumps, calls, returns and restarts (46_control.md). PC is past the whole instruction (R160).
-/

namespace Sys2Proof.Machine

/-! ## Jumps -/

/-- JP nn (R500). -/
def execJp (nn : Word) (s : State) : Result := .next (s.enter nn)

/-- JP cc,nn: MEMPTR takes nn whether taken or not (R501). -/
def execJpCc (cc : Cond) (nn : Word) (s : State) : Result :=
  .next (if s.holds cc then s.enter nn else { s with memptr := nn })

/-- JP (HL): the target is HL itself (R502). -/
def execJpHl (s : State) : Result := .next { s with pc := s.hl }

/-- JP (X) (R503). -/
def execJpX (x : IndexReg) (s : State) : Result := .next { s with pc := s.getX x }

/-- A taken relative jump: `PC <- u16(PC + e); MEMPTR <- PC` (R504). -/
def State.relativeJump (s : State) (e : Byte) : State := s.enter (s.pc + sext16 e)

/-- JR e (R504). -/
def execJr (e : Byte) (s : State) : Result := .next (s.relativeJump e)

/-- JR cc,e (R505). -/
def execJrCc (cc : Cond) (e : Byte) (s : State) : Result := .next (if s.holds cc then s.relativeJump e else s)

/-- DJNZ e (R506). -/
def execDjnz (e : Byte) (s : State) : Result :=
  let s1 := { s with b := s.b - 1 }
  .next (if s1.b != 0 then s1.relativeJump e else s1)

/-! ## Calls and returns -/

/-- `Push(PC); PC <- target; MEMPTR <- target` (R507, R512). -/
def State.callTo (s : State) (target : Word) : State := (s.push s.pc).enter target

/-- CALL nn (R507). -/
def execCall (nn : Word) (s : State) : Result := .next (s.callTo nn)

/-- CALL cc,nn: MEMPTR takes nn whether taken or not (R508). -/
def execCallCc (cc : Cond) (nn : Word) (s : State) : Result :=
  .next (if s.holds cc then s.callTo nn else { s with memptr := nn })

/-- RET (R509). -/
def execRet (s : State) : Result := .next s.popPc

/-- RET cc (R510). -/
def execRetCc (cc : Cond) (s : State) : Result := .next (if s.holds cc then s.popPc else s)

/-- The address of RST code t, `t * 8` (R148). -/
def rstTarget (t : BitVec 3) : Word := t.setWidth 16 <<< 3

/-- RST p (R512). -/
def execRst (t : BitVec 3) (s : State) : Result := .next (s.callTo (rstTarget t))

/-! ## Interrupt returns -/

/-- RETN, its mirrors included (R520). -/
def execRetn (_ : BitVec 3) (s : State) : Result := .next s.returnFromInterrupt

/-- RETI (R521). -/
def execReti (s : State) : Result := .next s.returnFromInterrupt

end Sys2Proof.Machine
end

