-- ==== Sys2Proof/Machine/Cpu.lean ====
section
/-!
DEFINITION. CPU control (48_cpu_control.md).
-/

namespace Sys2Proof.Machine

/-- NOP (R580). -/
def execNop (s : State) : Result := .next s

/-- HALT: PC goes back to the HALT opcode, which every later step runs again until an interrupt or reset (R581, D12). -/
def execHalt (s : State) : Result := .next { s with halted := true, pc := s.pc - 1 }

/-- DI (R582). -/
def execDi (s : State) : Result := .next { s with iff1 := false, iff2 := false }

/-- EI (R583). -/
def execEi (s : State) : Result := .next { s with iff1 := true, iff2 := true, pendingEI := true }

/-- IM 0, its mirrors included (R584). -/
def execIm0 (_ : BitVec 3) (s : State) : Result := .next { s with im := .im0 }

/-- IM 1, its mirror included (R584). -/
def execIm1 (_ : BitVec 3) (s : State) : Result := .next { s with im := .im1 }

/-- IM 2, its mirror included (R584). -/
def execIm2 (_ : BitVec 3) (s : State) : Result := .next { s with im := .im2 }

/-- ED no-op: the diagnostic log and nothing else (R167, R585). -/
def execEdNop (_ : Byte) (s : State) : Result := .next (s.emit .log)

end Sys2Proof.Machine
end

