-- ==== Sys2Proof/Machine/Io.lean ====
section
/-!
DEFINITION. Input and output (47_io.md). Port addresses are formed as R104 says.
-/

namespace Sys2Proof.Machine

/-- IN A,(n): port A:n with the old A; no flag (R550). -/
def execInAN (n : Byte) (s : State) : Result :=
  let p := mk16 s.a n
  let (v, s1) := ({ s with memptr := p + 1 }).portRead p
  .next { s1 with a := v }

/-- OUT (n),A: MEMPTR takes A : u8(n + 1) (R551). -/
def execOutNA (n : Byte) (s : State) : Result :=
  let s1 := s.portWrite (mk16 s.a n) s.a
  .next { s1 with memptr := mk16 s.a (n + 1) }

/-- `MEMPTR <- u16(BC + 1); v <- PortRead(BC)`, and the flags of v (R552, R553). -/
def State.inputC (s : State) : Byte × State :=
  let (v, s1) := ({ s with memptr := s.bc + 1 }).portRead s.bc
  (v, s1.setFlags (parityFlags v s1.f))

/-- `PortWrite(BC, v); MEMPTR <- u16(BC + 1)` (R554, R555). -/
def State.outputC (s : State) (v : Byte) : State :=
  let s1 := s.portWrite s.bc v
  { s1 with memptr := s.bc + 1 }

/-- IN r,(C) (R552). -/
def execInRC (r : Reg8) (s : State) : Result :=
  let (v, s1) := s.inputC
  .next (s1.setR8 r v)

/-- IN (C): the flags only (R553). -/
def execInC (s : State) : Result := .next s.inputC.2

/-- OUT (C),r (R554). -/
def execOutCR (r : Reg8) (s : State) : Result := .next (s.outputC (s.getR8 r))

/-- OUT (C),0: the byte written is 0x00 (R555, D1). -/
def execOutC0 (s : State) : Result := .next (s.outputC 0x00)

end Sys2Proof.Machine
end

