-- ==== Sys2Proof/Machine/Load16.lean ====
section
/-!
DEFINITION. 16-bit loads, stack and exchanges (41_load16_exchange.md). None sets flagQ (D16).
-/

namespace Sys2Proof.Machine

/-! ## Immediate and direct loads -/

/-- LD rp,nn (R250). -/
def execLdRpNn (rp : RegPair) (nn : Word) (s : State) : Result := .next (s.setRp rp nn)

/-- `w <- MemRead(nn, 2); MEMPTR <- u16(nn + 1)`: the word at an address (R251, R253, R257). -/
def State.loadWord (s : State) (nn : Word) : Word × State :=
  let (w, s1) := s.memRead16 nn
  (w, { s1 with memptr := nn + 1 })

/-- `MemWrite(nn, 2, w); MEMPTR <- u16(nn + 1)` (R252, R254, R258). -/
def State.storeWord (s : State) (nn w : Word) : State :=
  let s1 := s.memWrite16 nn w
  { s1 with memptr := nn + 1 }

/-- LD HL,(nn) (R251). -/
def execLdHlMem (nn : Word) (s : State) : Result :=
  let (w, s1) := s.loadWord nn
  .next (s1.setHl w)

/-- LD (nn),HL (R252). -/
def execLdMemHl (nn : Word) (s : State) : Result := .next (s.storeWord nn s.hl)

/-- LD rp,(nn) (R253). -/
def execLdRpMem (rp : RegPair) (nn : Word) (s : State) : Result :=
  let (w, s1) := s.loadWord nn
  .next (s1.setRp rp w)

/-- LD (nn),rp (R254). -/
def execLdMemRp (rp : RegPair) (nn : Word) (s : State) : Result := .next (s.storeWord nn (s.getRp rp))

/-- LD SP,HL (R255). -/
def execLdSpHl (s : State) : Result := .next { s with sp := s.hl }

/-! ## Index register loads -/

/-- LD X,nn (R256). -/
def execLdXNn (x : IndexReg) (nn : Word) (s : State) : Result := .next (s.setX x nn)

/-- LD X,(nn) (R257). -/
def execLdXMem (x : IndexReg) (nn : Word) (s : State) : Result :=
  let (w, s1) := s.loadWord nn
  .next (s1.setX x w)

/-- LD (nn),X (R258). -/
def execLdMemX (x : IndexReg) (nn : Word) (s : State) : Result := .next (s.storeWord nn (s.getX x))

/-- LD SP,X (R259). -/
def execLdSpX (x : IndexReg) (s : State) : Result := .next { s with sp := s.getX x }

/-! ## PUSH and POP -/

/-- PUSH qq (R264). -/
def execPushQq (qq : StackPair) (s : State) : Result := .next (s.push (s.getQq qq))

/-- POP qq (R265). -/
def execPopQq (qq : StackPair) (s : State) : Result :=
  let (w, s1) := s.pop
  .next (s1.setQq qq w)

/-- PUSH X (R266). -/
def execPushX (x : IndexReg) (s : State) : Result := .next (s.push (s.getX x))

/-- POP X (R267). -/
def execPopX (x : IndexReg) (s : State) : Result :=
  let (w, s1) := s.pop
  .next (s1.setX x w)

/-! ## Exchanges -/

/-- EX DE,HL (R270). -/
def execExDeHl (s : State) : Result := .next ((s.setDe s.hl).setHl s.de)

/-- EX AF,AF' (R271). -/
def execExAfAf (s : State) : Result := .next { s with a := s.a', f := s.f', a' := s.a, f' := s.f }

/-- EXX (R272). -/
def execExx (s : State) : Result :=
  .next { s with
    b := s.b', c := s.c', d := s.d', e := s.e', h := s.h', l := s.l'
    b' := s.b, c' := s.c, d' := s.d, e' := s.e, h' := s.h, l' := s.l }

/-- `EX (SP),w`: read the word at SP, write the high byte of w at SP + 1, then the low byte at SP; MEMPTR takes the word
read (R273, R274, D32). -/
def State.exchangeTop (s : State) (w : Word) : Word × State :=
  let (t, s1) := s.memRead16 s.sp
  let s2 := (s1.memWrite (s1.sp + 1) (hi8 w)).memWrite s1.sp (lo8 w)
  (t, { s2 with memptr := t })

/-- EX (SP),HL (R273). -/
def execExSpHl (s : State) : Result :=
  let (t, s1) := s.exchangeTop s.hl
  .next (s1.setHl t)

/-- EX (SP),X (R274). -/
def execExSpX (x : IndexReg) (s : State) : Result :=
  let (t, s1) := s.exchangeTop (s.getX x)
  .next (s1.setX x t)

end Sys2Proof.Machine
end

