-- ==== Sys2Proof/Machine/Load8.lean ====
section
/-!
DEFINITION. 8-bit loads (40_load8.md). Each meaning starts with PC past the whole instruction (R20, R160).
-/

namespace Sys2Proof.Machine

/-! ## Register and (HL) forms -/

/-- LD r,r' (R200). -/
def execLdRR (r s' : Reg8) (s : State) : Result := .next (s.setR8 r (s.getR8 s'))

/-- LD r,n (R201). -/
def execLdRN (r : Reg8) (n : Byte) (s : State) : Result := .next (s.setR8 r n)

/-- LD r,(HL) (R202). -/
def execLdRHl (r : Reg8) (s : State) : Result :=
  let (v, s1) := s.readHl
  .next (s1.setR8 r v)

/-- LD (HL),r (R203). -/
def execLdHlR (r : Reg8) (s : State) : Result := .next (s.memWrite s.hl (s.getR8 r))

/-- LD (HL),n (R204). -/
def execLdHlN (n : Byte) (s : State) : Result := .next (s.memWrite s.hl n)

/-! ## Accumulator forms -/

/-- `A <- MemRead(p, 1); MEMPTR <- u16(p + 1)`: the loads of A from an address (R205 to R207). -/
def State.loadA (s : State) (p : Word) : State :=
  let (v, s1) := s.memRead p
  { s1 with a := v, memptr := p + 1 }

/-- `MemWrite(p, 1, A); MEMPTR <- A : u8(lo8(p) + 1)`: the stores of A to an address (R208 to R210). -/
def State.storeA (s : State) (p : Word) : State :=
  let s1 := s.memWrite p s.a
  { s1 with memptr := mk16 s.a (lo8 p + 1) }

/-- LD A,(BC) (R205). -/
def execLdABc (s : State) : Result := .next (s.loadA s.bc)

/-- LD A,(DE) (R206). -/
def execLdADe (s : State) : Result := .next (s.loadA s.de)

/-- LD A,(nn) (R207). -/
def execLdAMem (nn : Word) (s : State) : Result := .next (s.loadA nn)

/-- LD (BC),A (R208). -/
def execLdBcA (s : State) : Result := .next (s.storeA s.bc)

/-- LD (DE),A (R209). -/
def execLdDeA (s : State) : Result := .next (s.storeA s.de)

/-- LD (nn),A (R210). -/
def execLdMemA (nn : Word) (s : State) : Result := .next (s.storeA nn)

/-! ## Indexed forms -/

/-- LD r,(X+d): r is a plain register (R211). -/
def execLdRXd (x : IndexReg) (d : Byte) (r : Reg8) (s : State) : Result :=
  let (v, s1) := s.readXd x d
  .next (s1.setR8 r v)

/-- LD (X+d),r (R212). -/
def execLdXdR (x : IndexReg) (d : Byte) (r : Reg8) (s : State) : Result :=
  .next ((s.indexed x d).memWrite (s.ea x d) (s.getR8 r))

/-- LD (X+d),n (R213). -/
def execLdXdN (x : IndexReg) (d n : Byte) (s : State) : Result := .next ((s.indexed x d).memWrite (s.ea x d) n)

/-! ## IXh/IXl forms -/

/-- LD r,XH (R214). -/
def execLdRXh (x : IndexReg) (r : Reg8) (s : State) : Result := .next (s.setR8 r (s.getXh x))

/-- LD r,XL (R215). -/
def execLdRXl (x : IndexReg) (r : Reg8) (s : State) : Result := .next (s.setR8 r (s.getXl x))

/-- LD XH,s (R216). -/
def execLdXhS (x : IndexReg) (k : IndexSrc) (s : State) : Result := .next (s.setXh x (s.getIndexSrc x k))

/-- LD XL,s (R217). -/
def execLdXlS (x : IndexReg) (k : IndexSrc) (s : State) : Result := .next (s.setXl x (s.getIndexSrc x k))

/-- LD XH,n (R218). -/
def execLdXhN (x : IndexReg) (n : Byte) (s : State) : Result := .next (s.setXh x n)

/-- LD XL,n (R219). -/
def execLdXlN (x : IndexReg) (n : Byte) (s : State) : Result := .next (s.setXl x n)

/-! ## I and R -/

/-- `A <- v`, with the flags of LD A,I and LD A,R (R231, R232, D20). -/
def State.loadIr (s : State) (v : Byte) : State := ({ s with a := v }).setFlags (loadIrFlags v s.f s.iff2)

/-- LD A,I (R231). -/
def execLdAI (s : State) : Result := .next (s.loadIr s.i)

/-- LD A,R, with R as both fetches of this instruction left it (R232). -/
def execLdARefresh (s : State) : Result := .next (s.loadIr s.r)

/-- LD I,A (R233). -/
def execLdIA (s : State) : Result := .next { s with i := s.a }

/-- LD R,A, all 8 bits (R234). -/
def execLdRefreshA (s : State) : Result := .next { s with r := s.a }

end Sys2Proof.Machine
end

