-- ==== Sys2Proof/Machine/Prefixes.lean ====
section
/-!
DEFINITION. The rows of the opcode table that are prefixes (30_encoding.md R162, R163, R165). Each meaning is what `dispatch`
does at that byte before the next row runs; `Machine/Cycle.lean` runs the next row in the same step.
-/

namespace Sys2Proof.Machine

/-- Prefix CB: fetch the byte that the CB domain dispatches on (R161, R162). -/
def execPrefixCB (s : State) : Result := .next s.m1

/-- Prefix ED: fetch the byte that the ED domain dispatches on (R161, R162). -/
def execPrefixED (s : State) : Result := .next s.m1

/-- Prefix DD: fetch the byte that the DD/FD domain dispatches on, with X = IX (R161, R162). -/
def execPrefixDD (s : State) : Result := .next s.m1

/-- Prefix FD: fetch the byte that the DD/FD domain dispatches on, with X = IY (R161, R162). -/
def execPrefixFD (s : State) : Result := .next s.m1

/-- Prefix DD/FD CB, with the displacement already read: read the byte that the DD/FD-CB domain dispatches on with
`MemRead`, and write MEMPTR (R161, R165). -/
def execPrefixXCB (x : IndexReg) (d : Byte) (s : State) : Result := .next (s.fetchOperand.indexed x d)

/-- The DD/FD fallback: the prefix has no effect, and the same byte is dispatched in the unprefixed domain (R163). -/
def execDdFallback (_ : IndexReg) (_ : Byte) (s : State) : Result := .next s

end Sys2Proof.Machine
end

