-- ==== Sys2Proof/Machine/Rotate.lean ====
section
/-!
DEFINITION. Rotates, shifts and bit operations (45_rotate_bit.md).
-/

namespace Sys2Proof.Machine

/-! ## Accumulator rotates -/

/-- An accumulator rotate (R450 to R453). -/
def State.rotateA (s : State) (k : ShiftOp) : State :=
  let o := accRotate k s.a s.f
  ({ s with a := o.1 }).setFlags o.2

/-- RLCA (R450). -/
def execRlca (s : State) : Result := .next (s.rotateA .rlc)
/-- RRCA (R451). -/
def execRrca (s : State) : Result := .next (s.rotateA .rrc)
/-- RLA (R452). -/
def execRla (s : State) : Result := .next (s.rotateA .rl)
/-- RRA (R453). -/
def execRra (s : State) : Result := .next (s.rotateA .rr)

/-! ## Rotates and shifts: the forms r, (HL), (X+d) and (X+d),r of R458 -/

/-- `shift(k, v)` as a modification (R455). -/
def shiftOp (k : ShiftOp) : Modify := fun s v => ((shift8 k v s.f).1, s.setFlags (shift8 k v s.f).2)

/-- RLC r (R460). -/
def execRlcR (r : Reg8) (s : State) : Result := .next (s.modifyR8 r (shiftOp .rlc))
/-- RLC (HL) (R460). -/
def execRlcHl (s : State) : Result := .next (s.modifyHl (shiftOp .rlc))
/-- RLC (X+d) (R460). -/
def execRlcXd (x : IndexReg) (d : Byte) (s : State) : Result := .next (s.modifyXd x d (shiftOp .rlc))
/-- RLC (X+d),r (R460). -/
def execRlcXdR (x : IndexReg) (d : Byte) (r : Reg8) (s : State) : Result := .next (s.modifyXdR x d r (shiftOp .rlc))

/-- RRC r (R461). -/
def execRrcR (r : Reg8) (s : State) : Result := .next (s.modifyR8 r (shiftOp .rrc))
/-- RRC (HL) (R461). -/
def execRrcHl (s : State) : Result := .next (s.modifyHl (shiftOp .rrc))
/-- RRC (X+d) (R461). -/
def execRrcXd (x : IndexReg) (d : Byte) (s : State) : Result := .next (s.modifyXd x d (shiftOp .rrc))
/-- RRC (X+d),r (R461). -/
def execRrcXdR (x : IndexReg) (d : Byte) (r : Reg8) (s : State) : Result := .next (s.modifyXdR x d r (shiftOp .rrc))

/-- RL r (R462). -/
def execRlR (r : Reg8) (s : State) : Result := .next (s.modifyR8 r (shiftOp .rl))
/-- RL (HL) (R462). -/
def execRlHl (s : State) : Result := .next (s.modifyHl (shiftOp .rl))
/-- RL (X+d) (R462). -/
def execRlXd (x : IndexReg) (d : Byte) (s : State) : Result := .next (s.modifyXd x d (shiftOp .rl))
/-- RL (X+d),r (R462). -/
def execRlXdR (x : IndexReg) (d : Byte) (r : Reg8) (s : State) : Result := .next (s.modifyXdR x d r (shiftOp .rl))

/-- RR r (R463). -/
def execRrR (r : Reg8) (s : State) : Result := .next (s.modifyR8 r (shiftOp .rr))
/-- RR (HL) (R463). -/
def execRrHl (s : State) : Result := .next (s.modifyHl (shiftOp .rr))
/-- RR (X+d) (R463). -/
def execRrXd (x : IndexReg) (d : Byte) (s : State) : Result := .next (s.modifyXd x d (shiftOp .rr))
/-- RR (X+d),r (R463). -/
def execRrXdR (x : IndexReg) (d : Byte) (r : Reg8) (s : State) : Result := .next (s.modifyXdR x d r (shiftOp .rr))

/-- SLA r (R464). -/
def execSlaR (r : Reg8) (s : State) : Result := .next (s.modifyR8 r (shiftOp .sla))
/-- SLA (HL) (R464). -/
def execSlaHl (s : State) : Result := .next (s.modifyHl (shiftOp .sla))
/-- SLA (X+d) (R464). -/
def execSlaXd (x : IndexReg) (d : Byte) (s : State) : Result := .next (s.modifyXd x d (shiftOp .sla))
/-- SLA (X+d),r (R464). -/
def execSlaXdR (x : IndexReg) (d : Byte) (r : Reg8) (s : State) : Result := .next (s.modifyXdR x d r (shiftOp .sla))

/-- SRA r (R465). -/
def execSraR (r : Reg8) (s : State) : Result := .next (s.modifyR8 r (shiftOp .sra))
/-- SRA (HL) (R465). -/
def execSraHl (s : State) : Result := .next (s.modifyHl (shiftOp .sra))
/-- SRA (X+d) (R465). -/
def execSraXd (x : IndexReg) (d : Byte) (s : State) : Result := .next (s.modifyXd x d (shiftOp .sra))
/-- SRA (X+d),r (R465). -/
def execSraXdR (x : IndexReg) (d : Byte) (r : Reg8) (s : State) : Result := .next (s.modifyXdR x d r (shiftOp .sra))

/-- SLL r (R466). -/
def execSllR (r : Reg8) (s : State) : Result := .next (s.modifyR8 r (shiftOp .sll))
/-- SLL (HL) (R466). -/
def execSllHl (s : State) : Result := .next (s.modifyHl (shiftOp .sll))
/-- SLL (X+d) (R466). -/
def execSllXd (x : IndexReg) (d : Byte) (s : State) : Result := .next (s.modifyXd x d (shiftOp .sll))
/-- SLL (X+d),r (R466). -/
def execSllXdR (x : IndexReg) (d : Byte) (r : Reg8) (s : State) : Result := .next (s.modifyXdR x d r (shiftOp .sll))

/-- SRL r (R467). -/
def execSrlR (r : Reg8) (s : State) : Result := .next (s.modifyR8 r (shiftOp .srl))
/-- SRL (HL) (R467). -/
def execSrlHl (s : State) : Result := .next (s.modifyHl (shiftOp .srl))
/-- SRL (X+d) (R467). -/
def execSrlXd (x : IndexReg) (d : Byte) (s : State) : Result := .next (s.modifyXd x d (shiftOp .srl))
/-- SRL (X+d),r (R467). -/
def execSrlXdR (x : IndexReg) (d : Byte) (r : Reg8) (s : State) : Result := .next (s.modifyXdR x d r (shiftOp .srl))

/-! ## BIT -/

/-- BIT b,r: 5 and 3 from the register (R470). -/
def execBitR (bit : BitVec 3) (r : Reg8) (s : State) : Result :=
  .next (s.setFlags (bitFlags bit (s.getR8 r) (s.getR8 r) s.f))

/-- BIT b,(HL): 5 and 3 from the high byte of MEMPTR (R472). -/
def execBitHl (bit : BitVec 3) (s : State) : Result :=
  let (v, s1) := s.readHl
  .next (s1.setFlags (bitFlags bit v (hi8 s1.memptr) s1.f))

/-- BIT b,(X+d): 5 and 3 from the high byte of the effective address; field z is ignored (R473, D18). -/
def execBitXd (x : IndexReg) (d : Byte) (bit _ : BitVec 3) (s : State) : Result :=
  let (v, s1) := s.readXd x d
  .next (s1.setFlags (bitFlags bit v (hi8 (s.ea x d)) s1.f))

/-! ## RES and SET: no flag, flagQ stays 0 -/

/-- RES as a modification (R475). -/
def resOp (bit : BitVec 3) : Modify := fun s v => (resBit bit v, s)
/-- SET as a modification (R480). -/
def setOp (bit : BitVec 3) : Modify := fun s v => (setBit bit v, s)

/-- RES b,r (R475). -/
def execResR (bit : BitVec 3) (r : Reg8) (s : State) : Result := .next (s.modifyR8 r (resOp bit))
/-- RES b,(HL) (R476). -/
def execResHl (bit : BitVec 3) (s : State) : Result := .next (s.modifyHl (resOp bit))
/-- RES b,(X+d) (R477). -/
def execResXd (x : IndexReg) (d : Byte) (bit : BitVec 3) (s : State) : Result := .next (s.modifyXd x d (resOp bit))
/-- RES b,(X+d),r (R477). -/
def execResXdR (x : IndexReg) (d : Byte) (bit : BitVec 3) (r : Reg8) (s : State) : Result :=
  .next (s.modifyXdR x d r (resOp bit))
/-- SET b,r (R480). -/
def execSetR (bit : BitVec 3) (r : Reg8) (s : State) : Result := .next (s.modifyR8 r (setOp bit))
/-- SET b,(HL) (R481). -/
def execSetHl (bit : BitVec 3) (s : State) : Result := .next (s.modifyHl (setOp bit))
/-- SET b,(X+d) (R482). -/
def execSetXd (x : IndexReg) (d : Byte) (bit : BitVec 3) (s : State) : Result := .next (s.modifyXd x d (setOp bit))
/-- SET b,(X+d),r (R482). -/
def execSetXdR (x : IndexReg) (d : Byte) (bit : BitVec 3) (r : Reg8) (s : State) : Result :=
  .next (s.modifyXdR x d r (setOp bit))

/-! ## Digit rotates -/

/-- What RLD and RRD share: read (HL), write the new byte back, set A, MEMPTR <- HL + 1 and the flags of the new A
(R490, R491). `g` gives the new A and the new byte from the old ones. -/
def State.rotateDigit (s : State) (g : Byte → Byte → Byte × Byte) : State :=
  let (t, s1) := s.readHl
  let o := g s.a t
  let s2 := s1.memWrite s.hl o.2
  ({ s2 with a := o.1, memptr := s.hl + 1 }).setFlags (parityFlags o.1 s.f)

/-- The new A and the new byte of RLD (R490). -/
def rldDigits (a t : Byte) : Byte × Byte := ((a &&& 0xF0) ||| (t >>> 4), (t <<< 4) ||| (a &&& 0x0F))
/-- The new A and the new byte of RRD (R491). -/
def rrdDigits (a t : Byte) : Byte × Byte := ((a &&& 0xF0) ||| (t &&& 0x0F), (a <<< 4) ||| (t >>> 4))

/-- RLD (R490). -/
def execRld (s : State) : Result := .next (s.rotateDigit rldDigits)
/-- RRD (R491). -/
def execRrd (s : State) : Result := .next (s.rotateDigit rrdDigits)

end Sys2Proof.Machine
end

