-- ==== Sys2Proof/Machine/Dispatch.lean ====
section
/-!
DEFINITION. The meaning of every instruction: one arm for each constructor of `Instr`, in the order of
spec/opcode_table.json. A meaning starts with PC past the bytes of its row (00_scope.md R20, 30_encoding.md R160).
-/

namespace Sys2Proof.Machine

def exec (i : Instr) (s : State) : Host.Outcome State Fault Refusal :=
  match i with
  -- unprefixed domain
  | .nop => Sys2Proof.Machine.execNop s
  | .ldRpNn rp nn => Sys2Proof.Machine.execLdRpNn rp nn s
  | .ldBcA => Sys2Proof.Machine.execLdBcA s
  | .incRp rp => Sys2Proof.Machine.execIncRp rp s
  | .incR r => Sys2Proof.Machine.execIncR r s
  | .decR r => Sys2Proof.Machine.execDecR r s
  | .ldRN r n => Sys2Proof.Machine.execLdRN r n s
  | .rlca => Sys2Proof.Machine.execRlca s
  | .exAfAf => Sys2Proof.Machine.execExAfAf s
  | .addHlRp rp => Sys2Proof.Machine.execAddHlRp rp s
  | .ldABc => Sys2Proof.Machine.execLdABc s
  | .decRp rp => Sys2Proof.Machine.execDecRp rp s
  | .rrca => Sys2Proof.Machine.execRrca s
  | .djnz e => Sys2Proof.Machine.execDjnz e s
  | .ldDeA => Sys2Proof.Machine.execLdDeA s
  | .rla => Sys2Proof.Machine.execRla s
  | .jr e => Sys2Proof.Machine.execJr e s
  | .ldADe => Sys2Proof.Machine.execLdADe s
  | .rra => Sys2Proof.Machine.execRra s
  | .jrCc cc e => Sys2Proof.Machine.execJrCc cc e s
  | .ldMemHl nn => Sys2Proof.Machine.execLdMemHl nn s
  | .daa => Sys2Proof.Machine.execDaa s
  | .ldHlMem nn => Sys2Proof.Machine.execLdHlMem nn s
  | .cpl => Sys2Proof.Machine.execCpl s
  | .ldMemA nn => Sys2Proof.Machine.execLdMemA nn s
  | .incHl => Sys2Proof.Machine.execIncHl s
  | .decHl => Sys2Proof.Machine.execDecHl s
  | .ldHlN n => Sys2Proof.Machine.execLdHlN n s
  | .scf => Sys2Proof.Machine.execScf s
  | .ldAMem nn => Sys2Proof.Machine.execLdAMem nn s
  | .ccf => Sys2Proof.Machine.execCcf s
  | .ldRR r s1 => Sys2Proof.Machine.execLdRR r s1 s
  | .ldRHl r => Sys2Proof.Machine.execLdRHl r s
  | .ldHlR r => Sys2Proof.Machine.execLdHlR r s
  | .halt => Sys2Proof.Machine.execHalt s
  | .addR r => Sys2Proof.Machine.execAddR r s
  | .addHl => Sys2Proof.Machine.execAddHl s
  | .addN n => Sys2Proof.Machine.execAddN n s
  | .adcR r => Sys2Proof.Machine.execAdcR r s
  | .adcHl => Sys2Proof.Machine.execAdcHl s
  | .adcN n => Sys2Proof.Machine.execAdcN n s
  | .subR r => Sys2Proof.Machine.execSubR r s
  | .subHl => Sys2Proof.Machine.execSubHl s
  | .subN n => Sys2Proof.Machine.execSubN n s
  | .sbcR r => Sys2Proof.Machine.execSbcR r s
  | .sbcHl => Sys2Proof.Machine.execSbcHl s
  | .sbcN n => Sys2Proof.Machine.execSbcN n s
  | .andR r => Sys2Proof.Machine.execAndR r s
  | .andHl => Sys2Proof.Machine.execAndHl s
  | .andN n => Sys2Proof.Machine.execAndN n s
  | .xorR r => Sys2Proof.Machine.execXorR r s
  | .xorHl => Sys2Proof.Machine.execXorHl s
  | .xorN n => Sys2Proof.Machine.execXorN n s
  | .orR r => Sys2Proof.Machine.execOrR r s
  | .orHl => Sys2Proof.Machine.execOrHl s
  | .orN n => Sys2Proof.Machine.execOrN n s
  | .cpR r => Sys2Proof.Machine.execCpR r s
  | .cpHl => Sys2Proof.Machine.execCpHl s
  | .cpN n => Sys2Proof.Machine.execCpN n s
  | .retCc cc => Sys2Proof.Machine.execRetCc cc s
  | .popQq qq => Sys2Proof.Machine.execPopQq qq s
  | .jpCc cc nn => Sys2Proof.Machine.execJpCc cc nn s
  | .jp nn => Sys2Proof.Machine.execJp nn s
  | .callCc cc nn => Sys2Proof.Machine.execCallCc cc nn s
  | .pushQq qq => Sys2Proof.Machine.execPushQq qq s
  | .rst t => Sys2Proof.Machine.execRst t s
  | .ret => Sys2Proof.Machine.execRet s
  | .prefixCB => Sys2Proof.Machine.execPrefixCB s
  | .call nn => Sys2Proof.Machine.execCall nn s
  | .outNA n => Sys2Proof.Machine.execOutNA n s
  | .exx => Sys2Proof.Machine.execExx s
  | .inAN n => Sys2Proof.Machine.execInAN n s
  | .prefixDD => Sys2Proof.Machine.execPrefixDD s
  | .exSpHl => Sys2Proof.Machine.execExSpHl s
  | .jpHl => Sys2Proof.Machine.execJpHl s
  | .exDeHl => Sys2Proof.Machine.execExDeHl s
  | .prefixED => Sys2Proof.Machine.execPrefixED s
  | .di => Sys2Proof.Machine.execDi s
  | .ldSpHl => Sys2Proof.Machine.execLdSpHl s
  | .ei => Sys2Proof.Machine.execEi s
  | .prefixFD => Sys2Proof.Machine.execPrefixFD s
  -- CB domain
  | .rlcR r => Sys2Proof.Machine.execRlcR r s
  | .rlcHl => Sys2Proof.Machine.execRlcHl s
  | .rrcR r => Sys2Proof.Machine.execRrcR r s
  | .rrcHl => Sys2Proof.Machine.execRrcHl s
  | .rlR r => Sys2Proof.Machine.execRlR r s
  | .rlHl => Sys2Proof.Machine.execRlHl s
  | .rrR r => Sys2Proof.Machine.execRrR r s
  | .rrHl => Sys2Proof.Machine.execRrHl s
  | .slaR r => Sys2Proof.Machine.execSlaR r s
  | .slaHl => Sys2Proof.Machine.execSlaHl s
  | .sraR r => Sys2Proof.Machine.execSraR r s
  | .sraHl => Sys2Proof.Machine.execSraHl s
  | .sllR r => Sys2Proof.Machine.execSllR r s
  | .sllHl => Sys2Proof.Machine.execSllHl s
  | .srlR r => Sys2Proof.Machine.execSrlR r s
  | .srlHl => Sys2Proof.Machine.execSrlHl s
  | .bitR bit r => Sys2Proof.Machine.execBitR bit r s
  | .bitHl bit => Sys2Proof.Machine.execBitHl bit s
  | .resR bit r => Sys2Proof.Machine.execResR bit r s
  | .resHl bit => Sys2Proof.Machine.execResHl bit s
  | .setR bit r => Sys2Proof.Machine.execSetR bit r s
  | .setHl bit => Sys2Proof.Machine.execSetHl bit s
  -- ED domain
  | .inRC r => Sys2Proof.Machine.execInRC r s
  | .inC => Sys2Proof.Machine.execInC s
  | .outCR r => Sys2Proof.Machine.execOutCR r s
  | .outC0 => Sys2Proof.Machine.execOutC0 s
  | .sbcHlRp rp => Sys2Proof.Machine.execSbcHlRp rp s
  | .adcHlRp rp => Sys2Proof.Machine.execAdcHlRp rp s
  | .ldMemRp rp nn => Sys2Proof.Machine.execLdMemRp rp nn s
  | .ldRpMem rp nn => Sys2Proof.Machine.execLdRpMem rp nn s
  | .neg y => Sys2Proof.Machine.execNeg y s
  | .retn y => Sys2Proof.Machine.execRetn y s
  | .reti => Sys2Proof.Machine.execReti s
  | .im0 y => Sys2Proof.Machine.execIm0 y s
  | .im1 y => Sys2Proof.Machine.execIm1 y s
  | .im2 y => Sys2Proof.Machine.execIm2 y s
  | .ldIA => Sys2Proof.Machine.execLdIA s
  | .ldRefreshA => Sys2Proof.Machine.execLdRefreshA s
  | .ldAI => Sys2Proof.Machine.execLdAI s
  | .ldARefresh => Sys2Proof.Machine.execLdARefresh s
  | .rrd => Sys2Proof.Machine.execRrd s
  | .rld => Sys2Proof.Machine.execRld s
  | .edNop op => Sys2Proof.Machine.execEdNop op s
  | .ldi => Sys2Proof.Machine.execLdi s
  | .cpi => Sys2Proof.Machine.execCpi s
  | .ini => Sys2Proof.Machine.execIni s
  | .outi => Sys2Proof.Machine.execOuti s
  | .ldd => Sys2Proof.Machine.execLdd s
  | .cpd => Sys2Proof.Machine.execCpd s
  | .ind => Sys2Proof.Machine.execInd s
  | .outd => Sys2Proof.Machine.execOutd s
  | .ldir => Sys2Proof.Machine.execLdir s
  | .cpir => Sys2Proof.Machine.execCpir s
  | .inir => Sys2Proof.Machine.execInir s
  | .otir => Sys2Proof.Machine.execOtir s
  | .lddr => Sys2Proof.Machine.execLddr s
  | .cpdr => Sys2Proof.Machine.execCpdr s
  | .indr => Sys2Proof.Machine.execIndr s
  | .otdr => Sys2Proof.Machine.execOtdr s
  -- DD/FD domain
  | .addXRp x rp => Sys2Proof.Machine.execAddXRp x rp s
  | .ldXNn x nn => Sys2Proof.Machine.execLdXNn x nn s
  | .ldMemX x nn => Sys2Proof.Machine.execLdMemX x nn s
  | .incX x => Sys2Proof.Machine.execIncX x s
  | .incXh x => Sys2Proof.Machine.execIncXh x s
  | .decXh x => Sys2Proof.Machine.execDecXh x s
  | .ldXhN x n => Sys2Proof.Machine.execLdXhN x n s
  | .ldXMem x nn => Sys2Proof.Machine.execLdXMem x nn s
  | .decX x => Sys2Proof.Machine.execDecX x s
  | .incXl x => Sys2Proof.Machine.execIncXl x s
  | .decXl x => Sys2Proof.Machine.execDecXl x s
  | .ldXlN x n => Sys2Proof.Machine.execLdXlN x n s
  | .incXd x d => Sys2Proof.Machine.execIncXd x d s
  | .decXd x d => Sys2Proof.Machine.execDecXd x d s
  | .ldXdN x d n => Sys2Proof.Machine.execLdXdN x d n s
  | .ldRXh x r => Sys2Proof.Machine.execLdRXh x r s
  | .ldRXl x r => Sys2Proof.Machine.execLdRXl x r s
  | .ldRXd x d r => Sys2Proof.Machine.execLdRXd x d r s
  | .ldXhS x s1 => Sys2Proof.Machine.execLdXhS x s1 s
  | .ldXlS x s1 => Sys2Proof.Machine.execLdXlS x s1 s
  | .ldXdR x d r => Sys2Proof.Machine.execLdXdR x d r s
  | .addXh x => Sys2Proof.Machine.execAddXh x s
  | .addXl x => Sys2Proof.Machine.execAddXl x s
  | .addXd x d => Sys2Proof.Machine.execAddXd x d s
  | .adcXh x => Sys2Proof.Machine.execAdcXh x s
  | .adcXl x => Sys2Proof.Machine.execAdcXl x s
  | .adcXd x d => Sys2Proof.Machine.execAdcXd x d s
  | .subXh x => Sys2Proof.Machine.execSubXh x s
  | .subXl x => Sys2Proof.Machine.execSubXl x s
  | .subXd x d => Sys2Proof.Machine.execSubXd x d s
  | .sbcXh x => Sys2Proof.Machine.execSbcXh x s
  | .sbcXl x => Sys2Proof.Machine.execSbcXl x s
  | .sbcXd x d => Sys2Proof.Machine.execSbcXd x d s
  | .andXh x => Sys2Proof.Machine.execAndXh x s
  | .andXl x => Sys2Proof.Machine.execAndXl x s
  | .andXd x d => Sys2Proof.Machine.execAndXd x d s
  | .xorXh x => Sys2Proof.Machine.execXorXh x s
  | .xorXl x => Sys2Proof.Machine.execXorXl x s
  | .xorXd x d => Sys2Proof.Machine.execXorXd x d s
  | .orXh x => Sys2Proof.Machine.execOrXh x s
  | .orXl x => Sys2Proof.Machine.execOrXl x s
  | .orXd x d => Sys2Proof.Machine.execOrXd x d s
  | .cpXh x => Sys2Proof.Machine.execCpXh x s
  | .cpXl x => Sys2Proof.Machine.execCpXl x s
  | .cpXd x d => Sys2Proof.Machine.execCpXd x d s
  | .prefixXCB x d => Sys2Proof.Machine.execPrefixXCB x d s
  | .popX x => Sys2Proof.Machine.execPopX x s
  | .exSpX x => Sys2Proof.Machine.execExSpX x s
  | .pushX x => Sys2Proof.Machine.execPushX x s
  | .jpX x => Sys2Proof.Machine.execJpX x s
  | .ldSpX x => Sys2Proof.Machine.execLdSpX x s
  | .ddFallback x op => Sys2Proof.Machine.execDdFallback x op s
  -- DD/FD CB domain
  | .rlcXd x d => Sys2Proof.Machine.execRlcXd x d s
  | .rlcXdR x d r => Sys2Proof.Machine.execRlcXdR x d r s
  | .rrcXd x d => Sys2Proof.Machine.execRrcXd x d s
  | .rrcXdR x d r => Sys2Proof.Machine.execRrcXdR x d r s
  | .rlXd x d => Sys2Proof.Machine.execRlXd x d s
  | .rlXdR x d r => Sys2Proof.Machine.execRlXdR x d r s
  | .rrXd x d => Sys2Proof.Machine.execRrXd x d s
  | .rrXdR x d r => Sys2Proof.Machine.execRrXdR x d r s
  | .slaXd x d => Sys2Proof.Machine.execSlaXd x d s
  | .slaXdR x d r => Sys2Proof.Machine.execSlaXdR x d r s
  | .sraXd x d => Sys2Proof.Machine.execSraXd x d s
  | .sraXdR x d r => Sys2Proof.Machine.execSraXdR x d r s
  | .sllXd x d => Sys2Proof.Machine.execSllXd x d s
  | .sllXdR x d r => Sys2Proof.Machine.execSllXdR x d r s
  | .srlXd x d => Sys2Proof.Machine.execSrlXd x d s
  | .srlXdR x d r => Sys2Proof.Machine.execSrlXdR x d r s
  | .bitXd x d bit z => Sys2Proof.Machine.execBitXd x d bit z s
  | .resXd x d bit => Sys2Proof.Machine.execResXd x d bit s
  | .resXdR x d bit r => Sys2Proof.Machine.execResXdR x d bit r s
  | .setXd x d bit => Sys2Proof.Machine.execSetXd x d bit s
  | .setXdR x d bit r => Sys2Proof.Machine.execSetXdR x d bit r s

end Sys2Proof.Machine
end

