-- ==== Sys2Proof/Machine/Step.lean ====
section
/-!
DEFINITION. The step of the machine: the cycle of Machine/Cycle.lean over the meanings of Machine/Dispatch.lean.
-/

namespace Sys2Proof.Machine

/-- One call of the single-instruction entry point (R600). -/
def step : State → Host.Outcome State Fault Refusal := stepWith exec

/-- The state with a table word stored where `step` fetches its next instruction (log 4, log 11). -/
def State.withFetchWord (s : State) (nbits w : Nat) : State := s.placeWord nbits w

end Sys2Proof.Machine
end

