-- ==== Sys2Proof/Machine/HostOps.lean ====
section
/-!
DEFINITION. What the host may do between steps (60_exceptions.md R660): the register accessors and mutators (R61), the
line setters (R650), the IM setter, the breakpoint operations (R631), snapshot capture and restore (R62, R63), the two
resets (R700, R701), memory writes and port answers, and the run-until entry point. No step calls any of these.
-/

namespace Sys2Proof.Machine

/-! ## Lines, mode, breakpoints -/

/-- `setNMI(v)` (R650). -/
def State.setNMI (s : State) (v : Bool) : State := { s with activeNMI := v }
/-- `setINT(v)` (R650). -/
def State.setINT (s : State) (v : Bool) : State := { s with activeINT := v }
/-- The interrupt-mode setter (R53, R660). The getter is the field `im`. -/
def State.setIM (s : State) (m : IntMode) : State := { s with im := m }
/-- `set(a)` of the breakpoint matrix (R631). -/
def State.bpSet (s : State) (p : Word) : State := { s with bp := bpInsert s.bp p.toNat }
/-- `clear(a)` of the breakpoint matrix (R631). -/
def State.bpClear (s : State) (p : Word) : State := { s with bp := bpErase s.bp p.toNat }
/-- `resetAll()` of the breakpoint matrix (R631). -/
def State.bpResetAll (s : State) : State := { s with bp := [] }
/-- The flag BP[a] (R60). -/
def State.bpAt (s : State) (p : Word) : Bool := s.bp.contains p.toNat

/-! ## Register accessors (R61) -/

/-- The 8-bit registers of R40. -/
inductive ByteReg where
  | a | f | b | c | d | e | h | l | a' | f' | b' | c' | d' | e' | h' | l' | i | r
  deriving DecidableEq, Repr

/-- The 16-bit registers of R40. -/
inductive WordReg where
  | pc | sp | ix | iy | memptr | lastPC
  deriving DecidableEq, Repr

/-- The 1-bit fields of R40, the two lines apart. -/
inductive BitReg where
  | iff1 | iff2 | pendingEI | halted | flagQ | lastFlagQ
  deriving DecidableEq, Repr

/-- Read an 8-bit register; `f` is the DOC's `getFlags()`, `r` its `getRegR()` (R61). -/
def State.readByteReg (s : State) : ByteReg → Byte
  | .a => s.a | .f => s.f | .b => s.b | .c => s.c | .d => s.d | .e => s.e | .h => s.h | .l => s.l
  | .a' => s.a' | .f' => s.f' | .b' => s.b' | .c' => s.c' | .d' => s.d' | .e' => s.e' | .h' => s.h' | .l' => s.l'
  | .i => s.i | .r => s.r

/-- Write an 8-bit register, all 8 bits of F and R included (R61). -/
def State.writeByteReg (s : State) (k : ByteReg) (v : Byte) : State :=
  match k with
  | .a => { s with a := v }
  | .f => { s with f := v }
  | .b => { s with b := v }
  | .c => { s with c := v }
  | .d => { s with d := v }
  | .e => { s with e := v }
  | .h => { s with h := v }
  | .l => { s with l := v }
  | .a' => { s with a' := v }
  | .f' => { s with f' := v }
  | .b' => { s with b' := v }
  | .c' => { s with c' := v }
  | .d' => { s with d' := v }
  | .e' => { s with e' := v }
  | .h' => { s with h' := v }
  | .l' => { s with l' := v }
  | .i => { s with i := v }
  | .r => { s with r := v }

/-- Read a 16-bit register (R61). -/
def State.readWordReg (s : State) : WordReg → Word
  | .pc => s.pc | .sp => s.sp | .ix => s.ix | .iy => s.iy | .memptr => s.memptr | .lastPC => s.lastPC

/-- Write a 16-bit register (R61). -/
def State.writeWordReg (s : State) (k : WordReg) (w : Word) : State :=
  match k with
  | .pc => { s with pc := w }
  | .sp => { s with sp := w }
  | .ix => { s with ix := w }
  | .iy => { s with iy := w }
  | .memptr => { s with memptr := w }
  | .lastPC => { s with lastPC := w }

/-- Read a 1-bit field (R61). -/
def State.readBitReg (s : State) : BitReg → Bool
  | .iff1 => s.iff1 | .iff2 => s.iff2 | .pendingEI => s.pendingEI | .halted => s.halted
  | .flagQ => s.flagQ | .lastFlagQ => s.lastFlagQ

/-- Write a 1-bit field (R61). -/
def State.writeBitReg (s : State) (k : BitReg) (v : Bool) : State :=
  match k with
  | .iff1 => { s with iff1 := v }
  | .iff2 => { s with iff2 := v }
  | .pendingEI => { s with pendingEI := v }
  | .halted => { s with halted := v }
  | .flagQ => { s with flagQ := v }
  | .lastFlagQ => { s with lastFlagQ := v }

/-! ## Memory and port answers -/

/-- The host writes a byte of `Mem` (R115, D29). -/
def State.hostWrite (s : State) (p : Word) (v : Byte) : State := { s with mem := s.mem.write p.toNat v }
/-- The host gives the answers of the next port reads (R103, log 3). -/
def State.answerPorts (s : State) (vs : List Byte) : State := { s with portIn := s.portIn ++ vs }

/-! ## Snapshot (R62 to R64) -/

/-- The snapshot record: every field of R40 but BP, lastPC and flagQ (R62, D24; log 14). -/
structure Snapshot where
  a : Byte
  f : Byte
  b : Byte
  c : Byte
  d : Byte
  e : Byte
  h : Byte
  l : Byte
  a' : Byte
  f' : Byte
  b' : Byte
  c' : Byte
  d' : Byte
  e' : Byte
  h' : Byte
  l' : Byte
  pc : Word
  sp : Word
  ix : Word
  iy : Word
  i : Byte
  r : Byte
  iff1 : Bool
  iff2 : Bool
  im : IntMode
  pendingEI : Bool
  halted : Bool
  activeNMI : Bool
  activeINT : Bool
  memptr : Word
  lastFlagQ : Bool
  deriving DecidableEq, Repr

/-- `capture()` (R62). -/
def State.capture (s : State) : Snapshot where
  a := s.a
  f := s.f
  b := s.b
  c := s.c
  d := s.d
  e := s.e
  h := s.h
  l := s.l
  a' := s.a'
  f' := s.f'
  b' := s.b'
  c' := s.c'
  d' := s.d'
  e' := s.e'
  h' := s.h'
  l' := s.l'
  pc := s.pc
  sp := s.sp
  ix := s.ix
  iy := s.iy
  i := s.i
  r := s.r
  iff1 := s.iff1
  iff2 := s.iff2
  im := s.im
  pendingEI := s.pendingEI
  halted := s.halted
  activeNMI := s.activeNMI
  activeINT := s.activeINT
  memptr := s.memptr
  lastFlagQ := s.lastFlagQ

/-- `restore(record)`: write every field of the record back and clear flagQ; BP, lastPC and what is no core state stay
(R63). -/
def State.restore (s : State) (x : Snapshot) : State :=
  { s with
    a := x.a, f := x.f, b := x.b, c := x.c, d := x.d, e := x.e, h := x.h, l := x.l
    a' := x.a', f' := x.f', b' := x.b', c' := x.c', d' := x.d', e' := x.e', h' := x.h', l' := x.l'
    pc := x.pc, sp := x.sp, ix := x.ix, iy := x.iy, i := x.i, r := x.r
    iff1 := x.iff1, iff2 := x.iff2, im := x.im, pendingEI := x.pendingEI, halted := x.halted
    activeNMI := x.activeNMI, activeINT := x.activeINT, memptr := x.memptr, lastFlagQ := x.lastFlagQ
    flagQ := false }

/-! ## Reset (R65, R700, R701) -/

/-- What both resets write (R65): PC, I, R, the flip-flops, IM, halted, pendingEI, the lines and the flag history. -/
def State.pinReset (s : State) : State :=
  { s with
    pc := 0x0000, i := 0x00, r := 0x00, iff1 := false, iff2 := false, im := .im0, halted := false, pendingEI := false
    activeNMI := false, activeINT := false, flagQ := false, lastFlagQ := false }

/-- Power-on reset: the pin reset, and the general registers at 0xFF and 0xFFFF; lastPC, BP and `Mem` stay (R700). -/
def State.powerOnReset (s : State) : State :=
  { s.pinReset with
    a := 0xFF, f := 0xFF, b := 0xFF, c := 0xFF, d := 0xFF, e := 0xFF, h := 0xFF, l := 0xFF
    a' := 0xFF, f' := 0xFF, b' := 0xFF, c' := 0xFF, d' := 0xFF, e' := 0xFF, h' := 0xFF, l' := 0xFF
    sp := 0xFFFF, ix := 0xFFFF, iy := 0xFFFF, memptr := 0xFFFF }

/-! ## Run until (R660, D35) -/

/-- `runUntil(limit)`: while the caller's clock is below the limit, step. `clock` lists the readings the oracle `Clock`
answers before each step; the run ends at the first reading that reaches the limit, at a step that stops, or with the
last reading given (log 7). -/
def runUntil (stp : State → Result) (limit : Nat) : List Nat → State → Result
  | [], s => .next s
  | now :: later, s =>
    if now < limit then
      match stp s with
      | .next s1 => runUntil stp limit later s1
      | .fault r => .fault r
      | .refused r => .refused r
    else .next s

end Sys2Proof.Machine
end

