-- ==== Sys2Proof/Safety.lean ====
section
/-!
DEFINITION. What a run may count on (the invariant of a state, the one memory that makes a step end with Hang), and the
terms in which statements about instructions are written: flags by meaning, operand forms, what an instruction leaves
unchanged. Nothing here is used by the machine.
-/

namespace Sys2Proof.Machine

/-! ## What a run may count on -/

/-- The invariant that every step keeps: memory and breakpoints are in canonical form; an EI delay is in effect only
while IFF2 is set (R583, R611); a halted core stands on a HALT opcode (R581, R670). -/
def State.Inv (s : State) : Prop :=
  s.mem.wf = true ∧ bpWf s.bp = true ∧ (s.pendingEI = true → s.iff2 = true) ∧
    (s.halted = true → s.byteAt s.pc = 0x76)

/-- Every byte of memory is a DD or FD prefix: the one memory in which a chain of prefixes never ends (R164). -/
def EndlessChain (m : Memory) : Prop := ∀ p : Word, m.read p.toNat = 0xDD ∨ m.read p.toNat = 0xFD

/-! ## Flags by meaning -/

/-- The eight flags of a flag byte (R45). -/
def FlagsAre (f : Byte) (s z five h three pv n c : Bool) : Prop :=
  flag .s f = s ∧ flag .z f = z ∧ flag .five f = five ∧ flag .h f = h ∧
    flag .three f = three ∧ flag .pv f = pv ∧ flag .n f = n ∧ flag .c f = c

/-- The number of 1 bits of a byte. -/
def ones (v : Byte) : Nat := ((List.range 8).filter fun k => v.getLsbD k).length

/-- The flags of the sum a + x + c: S, Z, 5, 3 from the result, H the carry out of bit 3, PV the signed overflow, C the
carry out of bit 7, N = 0. -/
def SumFlags (a x : Byte) (c : Bool) (f : Byte) : Prop :=
  let r : Byte := BitVec.ofNat 8 (a.toNat + x.toNat + c.toNat)
  FlagsAre f (decide (r.toNat ≥ 128)) (decide (r = 0)) (r.getLsbD 5)
    (decide (a.toNat % 16 + x.toNat % 16 + c.toNat ≥ 16)) (r.getLsbD 3)
    (decide (a.toInt + x.toInt + c.toNat ≥ 128 ∨ a.toInt + x.toInt + c.toNat < -128)) false
    (decide (a.toNat + x.toNat + c.toNat ≥ 256))

/-- The flags of the difference a - x - c, with 5 and 3 from the byte `xy`: H the borrow into bit 4, PV the signed
overflow, C the borrow, N = 1. -/
def DiffFlags (a x : Byte) (c : Bool) (xy f : Byte) : Prop :=
  let r : Byte := BitVec.ofInt 8 ((a.toNat : Int) - x.toNat - c.toNat)
  FlagsAre f (decide (r.toNat ≥ 128)) (decide (r = 0)) (xy.getLsbD 5)
    (decide (a.toNat % 16 < x.toNat % 16 + c.toNat)) (xy.getLsbD 3)
    (decide (a.toInt - x.toInt - c.toNat ≥ 128 ∨ a.toInt - x.toInt - c.toNat < -128)) true
    (decide (a.toNat < x.toNat + c.toNat))

/-- The flags that a shifted or loaded value gives: S, Z, 5, 3 and even parity from it, H and N as given, C as given. -/
def ValueFlags (v : Byte) (h n c : Bool) (f : Byte) : Prop :=
  FlagsAre f (decide (v.toNat ≥ 128)) (decide (v = 0)) (v.getLsbD 5) h (v.getLsbD 3) (decide (ones v % 2 = 0)) n c

/-! ## What an instruction leaves unchanged -/

/-- Every byte of memory outside the listed addresses is unchanged. -/
def MemKeptOutside (ps : List Word) (s t : State) : Prop := ∀ p : Word, p ∉ ps → t.byteAt p = s.byteAt p

/-- Every byte of memory is unchanged. -/
def MemKept (s t : State) : Prop := MemKeptOutside [] s t

/-- Apart from the registers A to L, IX, IY, memory and the event list, `t` is `s` with F = `f`, flagQ = `q`,
MEMPTR = `m`: the shadow bank, PC, SP, I, R, IFF1, IFF2, IM, pendingEI, halted, the lines, lastFlagQ, lastPC, the breakpoints
and the port answers are unchanged. -/
def Effect (s t : State) (f : Byte) (q : Bool) (m : Word) : Prop :=
  t = { s with
    a := t.a, b := t.b, c := t.c, d := t.d, e := t.e, h := t.h, l := t.l, ix := t.ix, iy := t.iy, mem := t.mem
    events := t.events, f := f, flagQ := q, memptr := m }

/-! ## Places: the operand forms that hold a byte -/

/-- A place an 8-bit result goes to: a register, (HL), XH, XL, (X+d), or (X+d) and a register (R143, R166, R458). -/
inductive Place where
  | r (k : Reg8)
  | hl
  | xh (x : IndexReg)
  | xl (x : IndexReg)
  | xd (x : IndexReg) (d : Byte)
  | xdr (x : IndexReg) (d : Byte) (k : Reg8)
  deriving DecidableEq, Repr

/-- The value of the place. -/
def Place.value (p : Place) (s : State) : Byte :=
  match p with
  | .r k => s.getR8 k
  | .hl => s.byteAt s.hl
  | .xh x => hi8 (s.getX x)
  | .xl x => lo8 (s.getX x)
  | .xd x d => s.byteAt (s.ea x d)
  | .xdr x d _ => s.byteAt (s.ea x d)

/-- The memory address of the place, if it is in memory. -/
def Place.addr (p : Place) (s : State) : Option Word :=
  match p with
  | .hl => some s.hl
  | .xd x d => some (s.ea x d)
  | .xdr x d _ => some (s.ea x d)
  | .r _ | .xh _ | .xl _ => none

/-- The register of the place, if it has one. -/
def Place.reg (p : Place) : Option Reg8 :=
  match p with
  | .r k => some k
  | .xdr _ _ k => some k
  | .hl | .xh _ | .xl _ | .xd _ _ => none

/-- What an index register holds once the place holds `v`. -/
def Place.indexAfter (p : Place) (s : State) (v : Byte) (y : IndexReg) : Word :=
  match p with
  | .xh x => if y = x then mk16 v (lo8 (s.getX y)) else s.getX y
  | .xl x => if y = x then mk16 (hi8 (s.getX y)) v else s.getX y
  | .r _ | .hl | .xd _ _ | .xdr _ _ _ => s.getX y

/-- What MEMPTR holds after an instruction on the place: the effective address for the (X+d) forms (R165, R356). -/
def Place.memptr (p : Place) (s : State) : Word :=
  match p with
  | .xd x d => s.ea x d
  | .xdr x d _ => s.ea x d
  | .r _ | .hl | .xh _ | .xl _ => s.memptr

/-- `t` holds `v` in the place, and every other register of A to L, the index registers' other parts and every other byte
of memory are those of `s`. -/
def Place.Written (p : Place) (s t : State) (v : Byte) : Prop :=
  (∀ k : Reg8, t.getR8 k = if p.reg = some k then v else s.getR8 k) ∧
    (∀ y : IndexReg, t.getX y = p.indexAfter s v y) ∧
    (∀ a : Word, p.addr s = some a → t.byteAt a = v) ∧
    (∀ q : Word, p.addr s ≠ some q → t.byteAt q = s.byteAt q)

/-- The forms of INC and DEC on a byte (R370 to R377). -/
inductive IncForm where
  | r (k : Reg8)
  | hl
  | xh (x : IndexReg)
  | xl (x : IndexReg)
  | xd (x : IndexReg) (d : Byte)
  deriving DecidableEq, Repr

/-- The place of the form. -/
def IncForm.place : IncForm → Place
  | .r k => .r k | .hl => .hl | .xh x => .xh x | .xl x => .xl x | .xd x d => .xd x d

/-- INC in the form. -/
def IncForm.inc : IncForm → Instr
  | .r k => .incR k | .hl => .incHl | .xh x => .incXh x | .xl x => .incXl x | .xd x d => .incXd x d

/-- DEC in the form. -/
def IncForm.dec : IncForm → Instr
  | .r k => .decR k | .hl => .decHl | .xh x => .decXh x | .xl x => .decXl x | .xd x d => .decXd x d

/-- The forms of the rotates and shifts, RES and SET (R458). -/
inductive BitForm where
  | r (k : Reg8)
  | hl
  | xd (x : IndexReg) (d : Byte)
  | xdr (x : IndexReg) (d : Byte) (k : Reg8)
  deriving DecidableEq, Repr

/-- The place of the form. -/
def BitForm.place : BitForm → Place
  | .r k => .r k | .hl => .hl | .xd x d => .xd x d | .xdr x d k => .xdr x d k

/-- A rotate or shift in the form (R460 to R467). -/
def BitForm.shift (k : ShiftOp) (p : BitForm) : Instr :=
  match k, p with
  | .rlc, .r j => .rlcR j | .rlc, .hl => .rlcHl | .rlc, .xd x d => .rlcXd x d | .rlc, .xdr x d j => .rlcXdR x d j
  | .rrc, .r j => .rrcR j | .rrc, .hl => .rrcHl | .rrc, .xd x d => .rrcXd x d | .rrc, .xdr x d j => .rrcXdR x d j
  | .rl, .r j => .rlR j | .rl, .hl => .rlHl | .rl, .xd x d => .rlXd x d | .rl, .xdr x d j => .rlXdR x d j
  | .rr, .r j => .rrR j | .rr, .hl => .rrHl | .rr, .xd x d => .rrXd x d | .rr, .xdr x d j => .rrXdR x d j
  | .sla, .r j => .slaR j | .sla, .hl => .slaHl | .sla, .xd x d => .slaXd x d | .sla, .xdr x d j => .slaXdR x d j
  | .sra, .r j => .sraR j | .sra, .hl => .sraHl | .sra, .xd x d => .sraXd x d | .sra, .xdr x d j => .sraXdR x d j
  | .sll, .r j => .sllR j | .sll, .hl => .sllHl | .sll, .xd x d => .sllXd x d | .sll, .xdr x d j => .sllXdR x d j
  | .srl, .r j => .srlR j | .srl, .hl => .srlHl | .srl, .xd x d => .srlXd x d | .srl, .xdr x d j => .srlXdR x d j

/-- RES b in the form (R475 to R477). -/
def BitForm.res (bit : BitVec 3) : BitForm → Instr
  | .r k => .resR bit k | .hl => .resHl bit | .xd x d => .resXd x d bit | .xdr x d k => .resXdR x d bit k

/-- SET b in the form (R480 to R482). -/
def BitForm.set (bit : BitVec 3) : BitForm → Instr
  | .r k => .setR bit k | .hl => .setHl bit | .xd x d => .setXd x d bit | .xdr x d k => .setXdR x d bit k

/-- The operand forms of the eight accumulator operations (R356). -/
inductive AluForm where
  | r (k : Reg8)
  | hl
  | n (v : Byte)
  | xd (x : IndexReg) (d : Byte)
  | xh (x : IndexReg)
  | xl (x : IndexReg)
  deriving DecidableEq, Repr

/-- The operand of the form (R356). -/
def AluForm.value (p : AluForm) (s : State) : Byte :=
  match p with
  | .r k => s.getR8 k
  | .hl => s.byteAt s.hl
  | .n v => v
  | .xd x d => s.byteAt (s.ea x d)
  | .xh x => hi8 (s.getX x)
  | .xl x => lo8 (s.getX x)

/-- MEMPTR after the form: "Only the (X+d) form writes MEMPTR" (R356). -/
def AluForm.memptr (p : AluForm) (s : State) : Word :=
  match p with
  | .xd x d => s.ea x d
  | .r _ | .hl | .n _ | .xh _ | .xl _ => s.memptr

/-- An accumulator operation in the form (R360 to R367). -/
def AluForm.instr (op : AluOp) (p : AluForm) : Instr :=
  match op, p with
  | .add, .r k => .addR k | .add, .hl => .addHl | .add, .n v => .addN v
  | .add, .xd x d => .addXd x d | .add, .xh x => .addXh x | .add, .xl x => .addXl x
  | .adc, .r k => .adcR k | .adc, .hl => .adcHl | .adc, .n v => .adcN v
  | .adc, .xd x d => .adcXd x d | .adc, .xh x => .adcXh x | .adc, .xl x => .adcXl x
  | .sub, .r k => .subR k | .sub, .hl => .subHl | .sub, .n v => .subN v
  | .sub, .xd x d => .subXd x d | .sub, .xh x => .subXh x | .sub, .xl x => .subXl x
  | .sbc, .r k => .sbcR k | .sbc, .hl => .sbcHl | .sbc, .n v => .sbcN v
  | .sbc, .xd x d => .sbcXd x d | .sbc, .xh x => .sbcXh x | .sbc, .xl x => .sbcXl x
  | .and, .r k => .andR k | .and, .hl => .andHl | .and, .n v => .andN v
  | .and, .xd x d => .andXd x d | .and, .xh x => .andXh x | .and, .xl x => .andXl x
  | .xor, .r k => .xorR k | .xor, .hl => .xorHl | .xor, .n v => .xorN v
  | .xor, .xd x d => .xorXd x d | .xor, .xh x => .xorXh x | .xor, .xl x => .xorXl x
  | .or, .r k => .orR k | .or, .hl => .orHl | .or, .n v => .orN v
  | .or, .xd x d => .orXd x d | .or, .xh x => .orXh x | .or, .xl x => .orXl x
  | .cp, .r k => .cpR k | .cp, .hl => .cpHl | .cp, .n v => .cpN v
  | .cp, .xd x d => .cpXd x d | .cp, .xh x => .cpXh x | .cp, .xl x => .cpXl x

/-! ## The stack, by address -/

/-- `t` is `s` with the word `w` pushed: SP down by 2, the high byte at the old SP - 1, the low byte at the old SP - 2,
every other byte of memory unchanged, and no other field changed but the event list (R262). -/
def Pushed (s t : State) (w : Word) : Prop :=
  t = { s with sp := s.sp - 2, mem := t.mem, events := t.events } ∧
    t.byteAt (s.sp - 1) = hi8 w ∧ t.byteAt (s.sp - 2) = lo8 w ∧ MemKeptOutside [s.sp - 1, s.sp - 2] s t

/-- The word that the two bytes from an address on hold, the first one low (R102). -/
def State.wordAt (s : State) (p : Word) : Word := BitVec.ofNat 16 ((s.byteAt p).toNat + 256 * (s.byteAt (p + 1)).toNat)

/-! ## What one step makes ready for an instruction -/

/-- How many M1 fetches an instruction that is no prefix makes: one for the unprefixed domain, two for the others
(R161). -/
def m1Count (i : Instr) : Nat :=
  match i.domain with
  | .base => 1
  | .cb | .ed | .index _ | .indexCB _ _ => 2

/-- R after `n` increments: its low 7 bits count, bit 7 stays (R51). -/
def refreshAfter (r : Byte) (n : Nat) : Byte :=
  BitVec.ofNat 8 (r.toNat / 128 * 128 + (r.toNat + n) % 128)

/-- MEMPTR when the meaning of an instruction starts: the effective address in the DD/FD-CB domain (R165). -/
def memptrAtStart (i : Instr) (s : State) : Word :=
  match i.domain with
  | .indexCB x d => s.ea x d
  | .base | .cb | .ed | .index _ => s.memptr

/-- The bytes from an address on, in order. -/
def State.bytesFrom (s : State) (p : Word) : Nat → List Byte
  | 0 => []
  | n + 1 => s.byteAt p :: s.bytesFrom (p + 1) n

/-- The memory after the stores of a list of events (R102, R106). -/
def replayWrites : List Event → Memory → Memory
  | [], m => m
  | .memWrite p v :: rest, m => replayWrites rest (m.write p.toNat v)
  | .fetch _ :: rest, m => replayWrites rest m
  | .memRead _ :: rest, m => replayWrites rest m
  | .portRead _ _ :: rest, m => replayWrites rest m
  | .portWrite _ _ :: rest, m => replayWrites rest m
  | .contend _ _ :: rest, m => replayWrites rest m
  | .notify :: rest, m => replayWrites rest m
  | .log :: rest, m => replayWrites rest m

/-- How many of the events are port reads. -/
def portReadCount (evs : List Event) : Nat :=
  (evs.filter fun ev => match ev with
    | .portRead _ _ => true
    | .fetch _ | .memRead _ | .memWrite _ _ | .portWrite _ _ | .contend _ _ | .notify | .log => false).length

/-! ## Places that hold a word, and the stack pairs -/

/-- A place a 16-bit result goes to: a pair of code rp, or an index register (R144, R150). -/
inductive WordPlace where
  | rp (k : RegPair)
  | x (x : IndexReg)
  deriving DecidableEq, Repr

/-- The pairs as views of their halves (R15). -/
def pairValue (s : State) : RegPair → Word
  | .bc => mk16 s.b s.c
  | .de => mk16 s.d s.e
  | .hl => mk16 s.h s.l
  | .sp => s.sp

/-- The pairs of PUSH and POP as views of their halves (R15, R264). -/
def stackValue (s : State) : StackPair → Word
  | .bc => mk16 s.b s.c
  | .de => mk16 s.d s.e
  | .hl => mk16 s.h s.l
  | .af => mk16 s.a s.f

/-- The value of the place. -/
def WordPlace.value (p : WordPlace) (s : State) : Word :=
  match p with
  | .rp k => pairValue s k
  | .x y => s.getX y

/-- `t` holds `w` in the place, and every other pair and index register is that of `s`. -/
def WordPlace.Written (p : WordPlace) (s t : State) (w : Word) : Prop :=
  (∀ k : RegPair, pairValue t k = if p = .rp k then w else pairValue s k) ∧
    (∀ y : IndexReg, t.getX y = if p = .x y then w else s.getX y)

/-- Apart from B to L, SP, IX, IY and the event list, `t` is `s` with F = `f`, flagQ = `q`, MEMPTR = `m`; memory is
unchanged. -/
def WordEffect (s t : State) (f : Byte) (q : Bool) (m : Word) : Prop :=
  t = { s with
    b := t.b, c := t.c, d := t.d, e := t.e, h := t.h, l := t.l, sp := t.sp, ix := t.ix, iy := t.iy
    events := t.events, f := f, flagQ := q, memptr := m } ∧ MemKept s t

/-- The place that the source of LD XH,s and LD XL,s names (R216, R217). -/
def srcPlace (x : IndexReg) : IndexSrc → Place
  | .b => .r .b | .c => .r .c | .d => .r .d | .e => .r .e | .xh => .xh x | .xl => .xl x | .a => .r .a

/-- The place that the second operand of ADD X,rp names (R144, R422). -/
def indexPairPlace (x : IndexReg) : IndexPair → WordPlace
  | .bc => .rp .bc | .de => .rp .de | .x => .x x | .sp => .rp .sp

/-! ## Conditions and shifts, by table -/

/-- The flag a condition tests and the value it wants (R145). -/
def condTest : Cond → FlagBit × Bool
  | .nz => (.z, false) | .z => (.z, true) | .nc => (.c, false) | .c => (.c, true)
  | .po => (.pv, false) | .pe => (.pv, true) | .p => (.s, false) | .m => (.s, true)

/-- The condition holds under the flags (R145). -/
def CondHolds (cc : Cond) (f : Byte) : Prop := flag (condTest cc).1 f = (condTest cc).2

/-- The shifted value as a number, from the value and the carry-in (R455). -/
def shiftedNat (k : ShiftOp) (v cin : Nat) : Nat :=
  match k with
  | .rlc => v * 2 % 256 + v / 128
  | .rrc => v / 2 + v % 2 * 128
  | .rl => v * 2 % 256 + cin
  | .rr => v / 2 + cin * 128
  | .sla => v * 2 % 256
  | .sra => v / 2 + v / 128 * 128
  | .sll => v * 2 % 256 + 1
  | .srl => v / 2

/-- The number of the bit shifted out, 0 or 1 (R455). -/
def shiftedOut (k : ShiftOp) (v : Nat) : Nat :=
  match k with
  | .rlc | .rl | .sla | .sll => v / 128
  | .rrc | .rr | .sra | .srl => v % 2

end Sys2Proof.Machine
end

