-- ==== Sys2Proof/Certificates/Slice0/Obligations.lean ====
section
/-!
DEFINITION. The statements for the provers. A docstring names the rule or the section of spec/ that a statement formalises;
a statement that rests on a decision of 92_eei_decisions.md or on a choice of the model's log says so.
-/

section Statements
open Sys2Proof Sys2Proof.Machine

/-- Power-on reset leaves 0xFF in every 8-bit register but I and R, which are 0, 0xFFFF in SP, IX, IY and MEMPTR, PC = 0, lastPC unchanged, every 1-bit field and both lines 0, IM0; pin reset leaves I, R, PC, the 1-bit fields, the lines and IM so and every other register unchanged; neither changes the breakpoints, memory or the port answers; a new core is power-on reset applied to lastPC = 0 and no breakpoint (with the model's own choices of log 1 and log 3: nothing written in memory, no port answer given). The values of I, R, MEMPTR, pendingEI, the lines and the flag history are the spec's decision D25. -/
def Obligations.ResetOperations : Prop :=
  (∀ (s : State) (k : ByteReg),
      s.powerOnReset.readByteReg k = (if k = .i ∨ k = .r then 0x00 else 0xFF) ∧
        s.pinReset.readByteReg k = (if k = .i ∨ k = .r then 0x00 else s.readByteReg k)) ∧
    (∀ (s : State) (k : WordReg),
      s.powerOnReset.readWordReg k = (if k = .pc then 0x0000 else if k = .lastPC then s.lastPC else 0xFFFF) ∧
        s.pinReset.readWordReg k = (if k = .pc then 0x0000 else s.readWordReg k)) ∧
    (∀ (s : State) (k : BitReg), s.powerOnReset.readBitReg k = false ∧ s.pinReset.readBitReg k = false) ∧
    (∀ s : State, ∀ t ∈ [s.powerOnReset, s.pinReset],
      t.im = .im0 ∧ t.activeNMI = false ∧ t.activeINT = false ∧ t.bp = s.bp ∧ t.mem = s.mem ∧ t.portIn = s.portIn ∧
        t.portReads = s.portReads ∧ t.events = s.events) ∧
    (∀ s : State, s.lastPC = 0x0000 → s.bp = [] → s.mem = [] → s.portIn = [] → s.portReads = 0 → s.events = [] →
      s.powerOnReset = State.reset)

/-- State.reset meets State.Inv: memory and breakpoints are in canonical form, no EI delay is in effect, the core is not halted. -/
def Obligations.ResetMeetsInvariant : Prop :=
  State.reset.Inv

/-- From every state that meets State.Inv (memory and breakpoints in canonical form; an EI delay only while IFF2 is set; a halted core stands on a byte 0x76), a step that answers a next state answers one that meets it. -/
def Obligations.StepKeepsInvariant : Prop :=
  ∀ s t : State, s.Inv → step s = .next t → t.Inv

/-- For every state, a step answers a next state if and only if an NMI is latched or the memory from which the step fetches (after an INT acceptance, if one is made) holds a byte other than 0xDD and 0xFD: no instruction, byte sequence or interrupt stops the core but the endless prefix chain. That the endless chain ends in a fault is the model's form of Hang (log 5, DESIGN CHOICE). -/
def Obligations.StepCompletesUnlessEndlessChain : Prop :=
  ∀ s : State, (∃ t, step s = .next t) ↔ (s.activeNMI = true ∨ ¬ EndlessChain s.atFetch.mem)

/-- With no NMI latched and every byte of memory a DD or FD prefix, the step ends with Hang in the state after 65,536 fetches: PC and R are back at their values, flagQ is 0, the events are the 65,536 fetches in order, and nothing else changed since the step began to fetch. That Hang is a fault that holds this state, and that the event list is a field of it, are the model's own forms (log 5 and log 6, DESIGN CHOICE). -/
def Obligations.EndlessChainHangs : Prop :=
  ∀ s : State, s.activeNMI = false → EndlessChain s.atFetch.mem →
    step s = .fault (.hang
      { s.atFetch with
        flagQ := false
        events := s.atFetch.events ++
          (List.range 65536).map fun k => Event.fetch (s.atFetch.pc + BitVec.ofNat 16 k) })

/-- For every well-formed instruction and any bytes after it: its row's bytes decode, in its domain, to it and leave the rest; and if it is no prefix row, its whole encoding decodes from the unprefixed domain to a chain of rows that ends in it, and leaves the rest. -/
def Obligations.DecodeOfEncode : Prop :=
  ∀ (i : Instr) (rest : List Byte), i.wf = true →
    decodeRow i.domain (i.rowBytes ++ rest) = .ok (i, rest) ∧
      (i.continues = none → ∃ is, decodeChain 4 .base (encode i ++ rest) = .ok (is ++ [i], rest))

/-- In every domain each of the 256 dispatching bytes hits exactly one row. If a byte stream decodes to a row's instruction, that instruction is well-formed, belongs to the domain, and the stream is its row's bytes followed by the rest. -/
def Obligations.EncodeOfDecode : Prop :=
  (∀ (dom : Domain) (op : Byte), ((rowsOf dom).filter fun row => row.hits op).length = 1) ∧
    ∀ (dom : Domain) (bytes rest : List Byte) (i : Instr), decodeRow dom bytes = .ok (i, rest) →
      i.wf = true ∧ i.domain = dom ∧ bytes = i.rowBytes ++ rest

/-- Twelve words, written from the encoding column of the opcode table with the first byte in bits 7 to 0, decode to their instructions: NOP, LD B,C, LD HL,0x1234, JR NZ,-2, RST 38H, RLC B, LDIR, LD DE,(0x4000), LD IY,0x1234, LD (IX+5),0xE7, SET 4,(IX+3),H, the ED no-op ED 00. That a table word is laid out first byte lowest with zero bytes after it, and that the instruction read is its last row's, is the model's own choice (log 10, DESIGN CHOICE). -/
def Obligations.KnownWordsDecode : Prop :=
  decodeTableWord 8 0x00 = some .nop ∧
    decodeTableWord 8 0x41 = some (.ldRR .b .c) ∧
    decodeTableWord 24 0x123421 = some (.ldRpNn .hl 0x1234) ∧
    decodeTableWord 16 0xFE20 = some (.jrCc .nz 0xFE) ∧
    decodeTableWord 8 0xFF = some (.rst 7) ∧
    decodeTableWord 16 0x00CB = some (.rlcR .b) ∧
    decodeTableWord 16 0xB0ED = some .ldir ∧
    decodeTableWord 32 0x40005BED = some (.ldRpMem .de 0x4000) ∧
    decodeTableWord 32 0x123421FD = some (.ldXNn .iy 0x1234) ∧
    decodeTableWord 32 0xE70536DD = some (.ldXdN .ix 0x05 0xE7) ∧
    decodeTableWord 32 0xE403CBDD = some (.setXdR .ix 0x03 4 .h) ∧
    decodeTableWord 16 0x00ED = some (.edNop 0x00)

/-- With no NMI latched, when the bytes from PC on (after an INT acceptance, if one is made) are the encoding of a well-formed instruction that is no prefix row, the step is that instruction's meaning, run with PC past the encoding, R counted up by its M1 fetches, flagQ cleared, MEMPTR at the effective address in the DD/FD-CB domain, and the fetches and operand reads in the event list; afterwards lastFlagQ takes flagQ and pendingEI is cleared unless the first byte is 0xFB. A fault or refusal of the meaning is the step's. -/
def Obligations.StepRunsTheDecodedInstruction : Prop :=
  ∀ (s : State) (i : Instr), i.wf = true → i.continues = none → s.activeNMI = false →
    let s1 := s.atFetch
    let len := (encode i).length
    s1.bytesFrom s1.pc len = encode i →
    step s =
      match exec i { s1 with
        pc := s1.pc + BitVec.ofNat 16 len
        r := refreshAfter s1.r (m1Count i)
        flagQ := false
        memptr := memptrAtStart i s1
        events := s1.events ++ (List.range len).map fun k =>
          if k < m1Count i then Event.fetch (s1.pc + BitVec.ofNat 16 k) else Event.memRead (s1.pc + BitVec.ofNat 16 k) } with
      | .next t => .next { t with
          lastFlagQ := t.flagQ
          pendingEI := t.pendingEI && decide ((encode i).head? = some 0xFB) }
      | .fault e => .fault e
      | .refused e => .refused e

/-- Prefix CB, ED, DD and FD make one M1 fetch: PC + 1, R counted up once, a Fetch event, nothing else. Prefix DD/FD CB, its displacement read, reads the operation byte with MemRead and writes the effective address to MEMPTR. The DD/FD fallback row changes nothing. A DD or FD byte followed by a byte outside the DD/FD set is run as that byte alone, after one more M1 fetch. -/
def Obligations.PrefixRowsAndFallback : Prop :=
  (∀ (s : State), ∀ i ∈ [Instr.prefixCB, .prefixED, .prefixDD, .prefixFD],
      ∃ t, exec i s = .next t ∧
        t = { s with pc := s.pc + 1, r := refreshAfter s.r 1, events := s.events ++ [.fetch s.pc] }) ∧
    (∀ (s : State) (x : IndexReg) (d : Byte),
      ∃ t, exec (.prefixXCB x d) s = .next t ∧
        t = { s with pc := s.pc + 1, memptr := s.ea x d, events := s.events ++ [.memRead s.pc] }) ∧
    (∀ (s : State) (x : IndexReg) (op : Byte), ∃ t, exec (.ddFallback x op) s = .next t ∧ t = s) ∧
    (∀ (s : State) (x : IndexReg) (n : Nat), inIndexSet (s.byteAt s.pc) = false →
      dispatch exec (n + 1) x.byte s =
        dispatch exec n (s.byteAt s.pc)
          { s with pc := s.pc + 1, r := refreshAfter s.r 1, events := s.events ++ [.fetch s.pc] })

/-- Whatever a step does (an instruction, an NMI acceptance, an INT acceptance and the handler's first instruction), lastPC holds afterwards the PC at which the step began. -/
def Obligations.LastPcIsThePcTheStepBeganAt : Prop :=
  ∀ s t : State, step s = .next t → t.lastPC = s.pc

/-- Whatever IFF1, pendingEI, halted and INT hold, a step with an NMI latched pushes PC (the address after the HALT opcode if halted), enters 0x0066 with MEMPTR = 0x0066, clears IFF1, halted, the latch and lastFlagQ, counts R up once and makes the timing fetch; IFF2, IM, I, pendingEI, activeINT and every other register are unchanged, and so is every byte of memory but the two pushed. -/
def Obligations.NmiAcceptance : Prop :=
  ∀ s : State, s.activeNMI = true →
    ∃ t, step s = .next t ∧
      (let ret : Word := if s.halted then s.pc + 1 else s.pc
       t.byteAt (s.sp - 1) = hi8 ret ∧ t.byteAt (s.sp - 2) = lo8 ret ∧
         MemKeptOutside [s.sp - 1, s.sp - 2] s t ∧
         t = { s with
           pc := 0x0066, memptr := 0x0066, sp := s.sp - 2, r := refreshAfter s.r 1
           iff1 := false, halted := false, activeNMI := false, lastFlagQ := false, lastPC := s.pc, mem := t.mem
           events := [.fetch s.pc, .memWrite (s.sp - 1) (hi8 ret), .memWrite (s.sp - 2) (lo8 ret)] })

/-- Take the state from which a step that accepts no NMI fetches its first byte. If activeINT = 1, IFF1 = 1 and pendingEI = 0, PC (the address after HALT if halted) is on the stack, PC and MEMPTR are 0x0038 in IM0 and IM1 and in IM2 the little-endian word at I:0xFF as the memory after the push holds it, IFF1 = IFF2 = 0, halted = 0, lastFlagQ = 0, R counted up once, activeINT unchanged. Otherwise every register and memory is as before the step. In both cases lastPC is the PC before, and a breakpoint at the new PC is notified; no other field changes. -/
def Obligations.IntAcceptance : Prop :=
  ∀ s : State,
    let u := s.atFetch
    let ret : Word := if s.halted then s.pc + 1 else s.pc
    let vector : Word := mk16 s.i 0xFF
    let target : Word := if s.im = .im2 then u.wordAt vector else 0x0038
    let note : Word → List Event := fun p => if p.toNat ∈ s.bp then [.notify] else []
    ((s.activeINT = true ∧ s.iff1 = true ∧ s.pendingEI = false) →
      u.byteAt (s.sp - 1) = hi8 ret ∧ u.byteAt (s.sp - 2) = lo8 ret ∧ MemKeptOutside [s.sp - 1, s.sp - 2] s u ∧
        u = { s with
          pc := target, memptr := target, sp := s.sp - 2, r := refreshAfter s.r 1
          iff1 := false, iff2 := false, halted := false, lastFlagQ := false, lastPC := s.pc, mem := u.mem
          events := [.memWrite (s.sp - 1) (hi8 ret), .memWrite (s.sp - 2) (lo8 ret)] ++
            (if s.im = .im2 then [.memRead vector, .memRead (vector + 1)] else []) ++ note target }) ∧
    (¬ (s.activeINT = true ∧ s.iff1 = true ∧ s.pendingEI = false) →
      u = { s with lastPC := s.pc, events := note s.pc })

/-- A step whose first byte is 0xFB leaves IFF1 = IFF2 = pendingEI = 1, so that whatever the INT line then is, the next step accepts no INT: it fetches at the PC that EI left. A step that accepts no NMI and whose first byte is not 0xFB leaves pendingEI = 0. -/
def Obligations.EiShadow : Prop :=
  ∀ s t : State, s.activeNMI = false → step s = .next t →
    (s.atFetch.byteAt s.atFetch.pc = 0xFB →
      t.iff1 = true ∧ t.iff2 = true ∧ t.pendingEI = true ∧
        ∀ level : Bool, ((t.setINT level).atFetch).pc = t.pc ∧ ((t.setINT level).atFetch).sp = t.sp) ∧
    (s.atFetch.byteAt s.atFetch.pc ≠ 0xFB → t.pendingEI = false)

/-- A core that stands on a byte 0x76, halted, with no NMI latched and no INT acceptable, makes a step that counts R up once and changes no other register and no memory but lastPC, flagQ, lastFlagQ and pendingEI, which are PC, 0, 0 and 0: it stays halted at the same PC. -/
def Obligations.HaltedCoreRepeatsHalt : Prop :=
  ∀ s : State, s.halted = true → s.byteAt s.pc = 0x76 → s.activeNMI = false →
    ¬ (s.activeINT = true ∧ s.iff1 = true ∧ s.pendingEI = false) →
    ∃ t, step s = .next t ∧ MemKept s t ∧
      t = { s with
        r := refreshAfter s.r 1, lastPC := s.pc, flagQ := false, lastFlagQ := false, pendingEI := false
        events := t.events }

/-- Two states that differ only in the breakpoint matrix make steps to states that differ only in it and in Notify events. A step makes one Notify event if it accepts no NMI and the address it fetches its first byte from has its flag set, and none otherwise. -/
def Obligations.BreakpointsOnlyNotify : Prop :=
  (∀ (s t : State) (m : List Nat), step s = .next t →
      ∃ u, step { s with bp := m } = .next u ∧ u = { t with bp := m, events := u.events } ∧
        (u.events.filter fun ev => decide (ev ≠ .notify)) = t.events.filter fun ev => decide (ev ≠ .notify)) ∧
    ∀ s t : State, step s = .next t →
      (t.events.filter fun ev => decide (ev = .notify)).length =
        if s.activeNMI = false ∧ s.atFetch.pc.toNat ∈ s.bp then 1 else 0

/-- When an instruction answers a next state: I changes only by LD I,A; bit 7 of R only by LD R,A; IM only by IM 0, 1, 2; B' to L' only by EXX; A' and F' only by EX AF,AF'; IFF2 only by EI and DI; IFF1 only by EI, DI, RETN and RETI; pendingEI only by EI; halted only by HALT; IX and IY only by instructions of the DD/FD domain; the interrupt lines, lastFlagQ, lastPC and the breakpoints by none. -/
def Obligations.WhichInstructionsReachWhichState : Prop :=
  ∀ (i : Instr) (s t : State), exec i s = .next t →
    (i ≠ .ldIA → t.i = s.i) ∧
    (i ≠ .ldRefreshA → t.r.getLsbD 7 = s.r.getLsbD 7) ∧
    ((∀ y, i ≠ .im0 y ∧ i ≠ .im1 y ∧ i ≠ .im2 y) → t.im = s.im) ∧
    (i ≠ .exx → t.b' = s.b' ∧ t.c' = s.c' ∧ t.d' = s.d' ∧ t.e' = s.e' ∧ t.h' = s.h' ∧ t.l' = s.l') ∧
    (i ≠ .exAfAf → t.a' = s.a' ∧ t.f' = s.f') ∧
    (i ≠ .ei → i ≠ .di → t.iff2 = s.iff2) ∧
    (i ≠ .ei → i ≠ .di → i ≠ .reti → (∀ y, i ≠ .retn y) → t.iff1 = s.iff1) ∧
    (i ≠ .ei → t.pendingEI = s.pendingEI) ∧
    (i ≠ .halt → t.halted = s.halted) ∧
    ((∀ x, i.domain ≠ .index x) → t.ix = s.ix ∧ t.iy = s.iy) ∧
    t.activeNMI = s.activeNMI ∧ t.activeINT = s.activeINT ∧ t.lastFlagQ = s.lastFlagQ ∧ t.lastPC = s.lastPC ∧
    t.bp = s.bp

/-- When an instruction answers a next state, flagQ is set or as before; if F changed, flagQ is set unless the instruction is POP AF or EX AF,AF', which leave flagQ as it was. -/
def Obligations.FlagHistory : Prop :=
  ∀ (i : Instr) (s t : State), exec i s = .next t →
    (t.flagQ = true ∨ t.flagQ = s.flagQ) ∧
    (t.f ≠ s.f → i ≠ .popQq .af → i ≠ .exAfAf → t.flagQ = true) ∧
    (i = .popQq .af ∨ i = .exAfAf → t.flagQ = s.flagQ)

/-- When an instruction answers a next state, it has appended events to the list, memory is the old memory with the listed stores made in order, and the port answers used up are as many as the listed port reads. After a step, memory is the old memory with the stores of the step's event list made in order. That the answers stand in the list portIn, each port read taking its head and counting portReads up, is the model's own form of PortIn (log 3, DESIGN CHOICE; R103 and D3 leave the oracle open). That the event list is a field of the state is the model's own form of R106 (log 6, DESIGN CHOICE). -/
def Obligations.EventsTellMemoryAndPorts : Prop :=
  (∀ (i : Instr) (s t : State), exec i s = .next t →
      ∃ evs, t.events = s.events ++ evs ∧ t.mem = replayWrites evs s.mem ∧
        t.portReads = s.portReads + portReadCount evs ∧ t.portIn = s.portIn.drop (portReadCount evs)) ∧
    ∀ s t : State, step s = .next t → t.mem = replayWrites t.events s.mem

/-- The effective address is X plus the signed displacement modulo 65536; a pair is 256 times its first register plus its second, and writing a pair, XH or XL writes those halves and no other; the R increment counts modulo 128 and keeps bit 7; a byte written to memory is read back and no other address changes. -/
def Obligations.AddressesAndPairs : Prop :=
  (∀ (s : State) (x : IndexReg) (d : Byte),
      ((s.ea x d).toNat : Int) = (((s.getX x).toNat : Int) + d.toInt) % 65536) ∧
    (∀ s : State, s.bc.toNat = 256 * s.b.toNat + s.c.toNat ∧ s.de.toNat = 256 * s.d.toNat + s.e.toNat ∧
      s.hl.toNat = 256 * s.h.toNat + s.l.toNat ∧ s.af.toNat = 256 * s.a.toNat + s.f.toNat) ∧
    (∀ (s : State) (k j : RegPair) (w : Word), (s.setRp k w).getRp j = if j = k then w else s.getRp j) ∧
    (∀ (s : State) (x : IndexReg) (v : Byte),
      (s.setXh x v).getXh x = v ∧ (s.setXh x v).getXl x = s.getXl x ∧
        (s.setXl x v).getXl x = v ∧ (s.setXl x v).getXh x = s.getXh x) ∧
    (∀ s : State, s.incR.r.toNat = s.r.toNat / 128 * 128 + (s.r.toNat + 1) % 128) ∧
    (∀ (s : State) (p q : Word) (v : Byte), (s.memWrite p v).byteAt q = if q = p then v else s.byteAt q)

/-- Restoring the snapshot of one state into another gives every register, 1-bit field, IM and line of the first, but for flagQ, which is 0, and lastPC, which with the breakpoints, memory, port answers and events stays the second's; restoring a state's own snapshot only clears flagQ. Setting, clearing and resetting breakpoints changes the flags of the addresses named and no other. That the port answers are a list and a count in the state is the model's own form of PortIn (log 3, DESIGN CHOICE). -/
def Obligations.SnapshotAndBreakpointOperations : Prop :=
  (∀ s t : State,
      (∀ k : ByteReg, (t.restore s.capture).readByteReg k = s.readByteReg k) ∧
        (∀ k : WordReg, (t.restore s.capture).readWordReg k = if k = .lastPC then t.lastPC else s.readWordReg k) ∧
        (∀ k : BitReg, (t.restore s.capture).readBitReg k = if k = .flagQ then false else s.readBitReg k) ∧
        (t.restore s.capture).im = s.im ∧ (t.restore s.capture).activeNMI = s.activeNMI ∧
        (t.restore s.capture).activeINT = s.activeINT ∧ (t.restore s.capture).bp = t.bp ∧
        (t.restore s.capture).mem = t.mem ∧ (t.restore s.capture).portIn = t.portIn ∧
        (t.restore s.capture).portReads = t.portReads ∧ (t.restore s.capture).events = t.events) ∧
    (∀ s : State, s.restore s.capture = { s with flagQ := false }) ∧
    (∀ (s : State) (p q : Word),
      (s.bpSet p).bpAt q = (s.bpAt q || decide (q = p)) ∧ (s.bpClear p).bpAt q = (s.bpAt q && decide (q ≠ p)) ∧
        s.bpResetAll.bpAt q = false)

/-- LD r,r', LD r,n, LD r,XH and LD r,XL answer a next state in which r holds the source's value, every other register, the index registers, F, flagQ, MEMPTR and memory unchanged. LD I,A and LD R,A answer the state with I, or all 8 bits of R, equal to A and nothing else changed. -/
def Obligations.LoadsBetweenRegisters : Prop :=
  ∀ (s : State) (r r' : Reg8) (n : Byte) (x : IndexReg),
    (∃ t, exec (.ldRR r r') s = .next t ∧ (Place.r r).Written s t (s.getR8 r') ∧ Effect s t s.f s.flagQ s.memptr) ∧
    (∃ t, exec (.ldRN r n) s = .next t ∧ (Place.r r).Written s t n ∧ Effect s t s.f s.flagQ s.memptr) ∧
    (∃ t, exec (.ldRXh x r) s = .next t ∧ (Place.r r).Written s t (hi8 (s.getX x)) ∧
      Effect s t s.f s.flagQ s.memptr) ∧
    (∃ t, exec (.ldRXl x r) s = .next t ∧ (Place.r r).Written s t (lo8 (s.getX x)) ∧
      Effect s t s.f s.flagQ s.memptr) ∧
    (∃ t, exec .ldIA s = .next t ∧ t = { s with i := s.a }) ∧
    (∃ t, exec .ldRefreshA s = .next t ∧ t = { s with r := s.a })

/-- LD r,(HL) answers a next state in which r holds the byte at HL, MEMPTR unchanged; LD r,(X+d) one in which r holds the byte at the effective address, which MEMPTR holds. Every other register, X, F, flagQ and memory are unchanged. -/
def Obligations.LoadsFromMemory : Prop :=
  ∀ (s : State) (r : Reg8) (x : IndexReg) (d : Byte),
    (∃ t, exec (.ldRHl r) s = .next t ∧ (Place.r r).Written s t (s.byteAt (mk16 s.h s.l)) ∧
      Effect s t s.f s.flagQ s.memptr) ∧
    (∃ t, exec (.ldRXd x d r) s = .next t ∧ (Place.r r).Written s t (s.byteAt (s.getX x + d.signExtend 16)) ∧
      Effect s t s.f s.flagQ (s.getX x + d.signExtend 16))

/-- Each answers a next state in which the byte at HL, or at the effective address, is the source's value and every other byte of memory, every register, F and flagQ are unchanged; MEMPTR holds the effective address after the (X+d) forms and is unchanged after the (HL) forms. -/
def Obligations.StoresToMemory : Prop :=
  ∀ (s : State) (r : Reg8) (n : Byte) (x : IndexReg) (d : Byte),
    (∃ t, exec (.ldHlR r) s = .next t ∧ Place.hl.Written s t (s.getR8 r) ∧ Effect s t s.f s.flagQ s.memptr) ∧
    (∃ t, exec (.ldHlN n) s = .next t ∧ Place.hl.Written s t n ∧ Effect s t s.f s.flagQ s.memptr) ∧
    (∃ t, exec (.ldXdR x d r) s = .next t ∧ (Place.xd x d).Written s t (s.getR8 r) ∧
      Effect s t s.f s.flagQ (s.ea x d)) ∧
    (∃ t, exec (.ldXdN x d n) s = .next t ∧ (Place.xd x d).Written s t n ∧ Effect s t s.f s.flagQ (s.ea x d))

/-- The loads answer a next state with A the byte at the address p and MEMPTR = p + 1 modulo 65536; the stores one with the byte at p equal to A and MEMPTR = A * 256 + (p + 1) mod 256. Every other register, F, flagQ and every other byte of memory are unchanged. -/
def Obligations.AccumulatorLoadsAndStores : Prop :=
  ∀ (s : State) (nn : Word),
    let loads := fun (i : Instr) (p : Word) =>
      ∃ t, exec i s = .next t ∧ (Place.r .a).Written s t (s.byteAt p) ∧
        Effect s t s.f s.flagQ (BitVec.ofNat 16 (p.toNat + 1))
    let stores := fun (i : Instr) (p : Word) =>
      ∃ t, exec i s = .next t ∧ t.byteAt p = s.a ∧ MemKeptOutside [p] s t ∧
        t = { s with
          mem := t.mem, events := t.events
          memptr := BitVec.ofNat 16 (256 * s.a.toNat + (p.toNat + 1) % 256) }
    loads .ldABc (mk16 s.b s.c) ∧ loads .ldADe (mk16 s.d s.e) ∧ loads (.ldAMem nn) nn ∧
      stores .ldBcA (mk16 s.b s.c) ∧ stores .ldDeA (mk16 s.d s.e) ∧ stores (.ldMemA nn) nn

/-- Each answers a next state in which the named half of X holds the source's value, read before the write; the other half, the other index register, every other register, F, flagQ, MEMPTR and memory are unchanged. -/
def Obligations.LoadsOfIndexHalves : Prop :=
  ∀ (s : State) (x : IndexReg) (k : IndexSrc) (n : Byte),
    (∃ t, exec (.ldXhS x k) s = .next t ∧ (Place.xh x).Written s t ((srcPlace x k).value s) ∧
      Effect s t s.f s.flagQ s.memptr) ∧
    (∃ t, exec (.ldXlS x k) s = .next t ∧ (Place.xl x).Written s t ((srcPlace x k).value s) ∧
      Effect s t s.f s.flagQ s.memptr) ∧
    (∃ t, exec (.ldXhN x n) s = .next t ∧ (Place.xh x).Written s t n ∧ Effect s t s.f s.flagQ s.memptr) ∧
    (∃ t, exec (.ldXlN x n) s = .next t ∧ (Place.xl x).Written s t n ∧ Effect s t s.f s.flagQ s.memptr)

/-- LD A,I and LD A,R answer a next state in which A is I, or all 8 bits of R as the state holds it, S, Z, 5 and 3 come from it, H = N = 0, PV = IFF2, C is unchanged and flagQ is set; nothing else changes. -/
def Obligations.LoadsOfAFromIAndR : Prop :=
  ∀ s : State,
    let loads := fun (i : Instr) (v : Byte) =>
      ∃ t, exec i s = .next t ∧ t = { s with a := v, f := t.f, flagQ := true } ∧
        FlagsAre t.f (decide (v.toNat ≥ 128)) (decide (v = 0)) (v.getLsbD 5) false (v.getLsbD 3) s.iff2 false
          (flag .c s.f)
    loads .ldAI s.i ∧ loads .ldARefresh s.r

/-- Each answers a next state in which the destination holds the source's word and every other pair, index register, A, F, flagQ, MEMPTR and memory are unchanged. -/
def Obligations.WordLoads : Prop :=
  ∀ (s : State) (k : RegPair) (x : IndexReg) (nn : Word),
    let loads := fun (i : Instr) (p : WordPlace) (w : Word) =>
      ∃ t, exec i s = .next t ∧ p.Written s t w ∧ WordEffect s t s.f s.flagQ s.memptr
    loads (.ldRpNn k nn) (.rp k) nn ∧ loads (.ldXNn x nn) (.x x) nn ∧
      loads .ldSpHl (.rp .sp) (mk16 s.h s.l) ∧ loads (.ldSpX x) (.rp .sp) (s.getX x)

/-- Each answers a next state in which the destination holds the byte at nn plus 256 times the byte at nn + 1 modulo 65536, MEMPTR is nn + 1, and every other pair, index register, A, F, flagQ and memory are unchanged. -/
def Obligations.WordLoadsFromMemory : Prop :=
  ∀ (s : State) (k : RegPair) (x : IndexReg) (nn : Word),
    let loads := fun (i : Instr) (p : WordPlace) =>
      ∃ t, exec i s = .next t ∧ p.Written s t (s.wordAt nn) ∧ WordEffect s t s.f s.flagQ (nn + 1)
    loads (.ldHlMem nn) (.rp .hl) ∧ loads (.ldRpMem k nn) (.rp k) ∧ loads (.ldXMem x nn) (.x x)

/-- Each answers a next state in which the byte at nn is the low byte of the source, the byte at nn + 1 modulo 65536 its high byte, every other byte of memory unchanged, MEMPTR = nn + 1 and every register unchanged. -/
def Obligations.WordStoresToMemory : Prop :=
  ∀ (s : State) (k : RegPair) (x : IndexReg) (nn : Word),
    let stores := fun (i : Instr) (w : Word) =>
      ∃ t, exec i s = .next t ∧ (t.byteAt nn).toNat = w.toNat % 256 ∧ (t.byteAt (nn + 1)).toNat = w.toNat / 256 ∧
        MemKeptOutside [nn, nn + 1] s t ∧ t = { s with mem := t.mem, events := t.events, memptr := nn + 1 }
    stores (.ldMemHl nn) (mk16 s.h s.l) ∧ stores (.ldMemRp k nn) (pairValue s k) ∧ stores (.ldMemX x nn) (s.getX x)

/-- PUSH of a pair (AF with all 8 bits of F) or of X answers a next state with SP down by 2, the high byte at the old SP - 1 and the low byte at the old SP - 2 modulo 65536, every other byte of memory and every other register unchanged. -/
def Obligations.PushStoresTheWordBelowSp : Prop :=
  ∀ (s : State) (qq : StackPair) (x : IndexReg),
    (∃ t, exec (.pushQq qq) s = .next t ∧ Pushed s t (stackValue s qq)) ∧
      ∃ t, exec (.pushX x) s = .next t ∧ Pushed s t (s.getX x)

/-- POP answers a next state in which the pair (AF with all 8 bits of F) or X holds the little-endian word at SP, SP is up by 2, and every other pair and index register, flagQ, MEMPTR and memory are unchanged. After PUSH of one pair and POP into any pair, the popped pair holds what the pushed one held and SP is as before. -/
def Obligations.PopReadsTheWordAtSp : Prop :=
  (∀ (s : State) (qq : StackPair) (x : IndexReg),
      (∃ t, exec (.popQq qq) s = .next t ∧
        (∀ k, stackValue t k = if k = qq then s.wordAt s.sp else stackValue s k) ∧ MemKept s t ∧
        t = { s with
          a := t.a, f := t.f, b := t.b, c := t.c, d := t.d, e := t.e, h := t.h, l := t.l
          sp := s.sp + 2, events := t.events }) ∧
      ∃ t, exec (.popX x) s = .next t ∧ (∀ y, t.getX y = if y = x then s.wordAt s.sp else s.getX y) ∧ MemKept s t ∧
        t = { s with ix := t.ix, iy := t.iy, sp := s.sp + 2, events := t.events }) ∧
    ∀ (s t u : State) (qq k : StackPair), exec (.pushQq qq) s = .next t → exec (.popQq k) t = .next u →
      stackValue u k = stackValue s qq ∧ u.sp = s.sp

/-- EX DE,HL exchanges D with H and E with L; EXX exchanges B, C, D, E, H, L with their shadows; nothing else changes. -/
def Obligations.ExchangesOfRegisters : Prop :=
  ∀ s : State,
    (∃ t, exec .exDeHl s = .next t ∧ t = { s with d := s.h, e := s.l, h := s.d, l := s.e } ∧ MemKept s t) ∧
      ∃ t, exec .exx s = .next t ∧ MemKept s t ∧
        t = { s with
          b := s.b', c := s.c', d := s.d', e := s.e', h := s.h', l := s.l'
          b' := s.b, c' := s.c, d' := s.d, e' := s.e, h' := s.h, l' := s.l }

/-- EX AF,AF' exchanges A and F with A' and F', flagQ unchanged. EX (SP),HL and EX (SP),X put the little-endian word at SP into HL or X and MEMPTR, store the old low byte at SP and the old high byte at SP + 1 (read first, high byte written first), and change no other byte of memory and no other register. -/
def Obligations.ExchangesOfAfAndTheStackTop : Prop :=
  (∀ s : State, ∃ t, exec .exAfAf s = .next t ∧ t = { s with a := s.a', f := s.f', a' := s.a, f' := s.f } ∧
      MemKept s t) ∧
    ∀ (s : State) (x : IndexReg),
      let swapped := fun (t : State) (w : Word) =>
        t.byteAt s.sp = lo8 w ∧ t.byteAt (s.sp + 1) = hi8 w ∧ MemKeptOutside [s.sp, s.sp + 1] s t
      let evs := fun (w : Word) =>
        s.events ++ [Event.memRead s.sp, .memRead (s.sp + 1), .memWrite (s.sp + 1) (hi8 w), .memWrite s.sp (lo8 w)]
      (∃ t, exec .exSpHl s = .next t ∧ swapped t (mk16 s.h s.l) ∧ mk16 t.h t.l = s.wordAt s.sp ∧
        t = { s with h := t.h, l := t.l, memptr := s.wordAt s.sp, mem := t.mem, events := evs (mk16 s.h s.l) }) ∧
      ∃ t, exec (.exSpX x) s = .next t ∧ swapped t (s.getX x) ∧
        (∀ y, t.getX y = if y = x then s.wordAt s.sp else s.getX y) ∧
        t = { s with ix := t.ix, iy := t.iy, memptr := s.wordAt s.sp, mem := t.mem, events := evs (s.getX x) }

/-- With v the byte at HL and n = v + A modulo 256, LDI (LDD) answers a next state with v at the old DE, every other byte of memory unchanged, HL and DE up (down) by 1, BC down by 1, S, Z, C unchanged, H = N = 0, PV = 1 exactly if the new BC is not 0, F.3 = n[3], F.5 = n[1], flagQ set, MEMPTR and every other register unchanged. -/
def Obligations.BlockTransfer : Prop :=
  ∀ s : State,
    let moves := fun (i : Instr) (δ : Word) =>
      let v := s.byteAt (mk16 s.h s.l)
      let n : Byte := BitVec.ofNat 8 (v.toNat + s.a.toNat)
      ∃ t, exec i s = .next t ∧ t.byteAt (mk16 s.d s.e) = v ∧ MemKeptOutside [mk16 s.d s.e] s t ∧
        mk16 t.h t.l = mk16 s.h s.l + δ ∧ mk16 t.d t.e = mk16 s.d s.e + δ ∧ mk16 t.b t.c = mk16 s.b s.c - 1 ∧
        t = { s with
          b := t.b, c := t.c, d := t.d, e := t.e, h := t.h, l := t.l, f := t.f, flagQ := true
          mem := t.mem, events := t.events } ∧
        FlagsAre t.f (flag .s s.f) (flag .z s.f) (n.getLsbD 1) false (n.getLsbD 3) (decide (mk16 s.b s.c ≠ 1)) false
          (flag .c s.f)
    moves .ldi 1 ∧ moves .ldd (-1)

/-- With v the byte at HL, CPI (CPD) answers a next state with HL up (down) by 1, BC down by 1, MEMPTR up (down) by 1, S and Z those of A - v, H the half borrow, PV = 1 exactly if the new BC is not 0, N = 1, C unchanged, F.3 and F.5 bits 3 and 1 of A - v - H, flagQ set, A, memory and every other register unchanged. -/
def Obligations.BlockCompare : Prop :=
  ∀ s : State,
    let compares := fun (i : Instr) (δ : Word) =>
      let v := s.byteAt (mk16 s.h s.l)
      let half := decide (s.a.toNat % 16 < v.toNat % 16)
      let res : Byte := BitVec.ofInt 8 ((s.a.toNat : Int) - v.toNat)
      let n : Byte := BitVec.ofInt 8 ((s.a.toNat : Int) - v.toNat - half.toNat)
      ∃ t, exec i s = .next t ∧ MemKept s t ∧
        mk16 t.h t.l = mk16 s.h s.l + δ ∧ mk16 t.b t.c = mk16 s.b s.c - 1 ∧
        t = { s with
          b := t.b, c := t.c, h := t.h, l := t.l, f := t.f, flagQ := true, memptr := s.memptr + δ
          events := t.events } ∧
        FlagsAre t.f (decide (res.toNat ≥ 128)) (decide (s.a = v)) (n.getLsbD 1) half (n.getLsbD 3)
          (decide (mk16 s.b s.c ≠ 1)) true (flag .c s.f)
    compares .cpi 1 ∧ compares .cpd (-1)

/-- Each repeated form answers the next state of its base form, changed only if its continuer holds in that state: then PC is 2 lower, 5 extra wait states are requested at the old DE (LDIR, LDDR), the old HL (CPIR, CPDR, INIR, INDR) or the new BC (OTIR, OTDR), and LDIR, LDDR, CPIR, CPDR also set MEMPTR to the new PC + 1. The continuer is BC not 0; for CPIR, CPDR also Z = 0; B not 0 for the I/O forms. -/
def Obligations.BlockRepeats : Prop :=
  ∀ s : State,
    let rolled := fun (t : State) (p : Word) => { t with pc := s.pc - 2, events := t.events ++ [Event.contend p 5] }
    let moves := fun (base rep : Instr) =>
      ∃ t, exec base s = .next t ∧
        exec rep s = .next (if mk16 t.b t.c = 0 then t else { rolled t (mk16 s.d s.e) with memptr := s.pc - 2 + 1 })
    let compares := fun (base rep : Instr) =>
      ∃ t, exec base s = .next t ∧
        exec rep s = .next (if mk16 t.b t.c = 0 ∨ flag .z t.f = true then t
          else { rolled t (mk16 s.h s.l) with memptr := s.pc - 2 + 1 })
    let inputs := fun (base rep : Instr) =>
      ∃ t, exec base s = .next t ∧ exec rep s = .next (if t.b = 0 then t else rolled t (mk16 s.h s.l))
    let outputs := fun (base rep : Instr) =>
      ∃ t, exec base s = .next t ∧ exec rep s = .next (if t.b = 0 then t else rolled t (mk16 t.b t.c))
    moves .ldi .ldir ∧ moves .ldd .lddr ∧ compares .cpi .cpir ∧ compares .cpd .cpdr ∧
      inputs .ini .inir ∧ inputs .ind .indr ∧ outputs .outi .otir ∧ outputs .outd .otdr

/-- INI (IND) reads the port BC, stores the answer at HL, takes B and HL down (up or down) by 1, MEMPTR = old BC + 1 (- 1), with k = answer + (C + 1 (- 1)) mod 256; OUTI (OUTD) writes the byte at HL to the port of the decremented B and C, MEMPTR = that port + 1 (- 1), with k = byte + the new L. S, Z, 5, 3 come from the new B, N is bit 7 of the byte moved, H = C = (k > 255), PV the parity of (k mod 8) xor B; flagQ is set; no other register and no other byte of memory changes. That the answers stand in the list portIn, each port read taking its head and counting portReads up, is the model's own form of PortIn (log 3, DESIGN CHOICE; R103 and D3 leave the oracle open). -/
def Obligations.BlockInputAndOutput : Prop :=
  ∀ s : State,
    let ioFlagsAre := fun (f b v : Byte) (k : Nat) =>
      FlagsAre f (decide (b.toNat ≥ 128)) (decide (b = 0)) (b.getLsbD 5) (decide (k > 255)) (b.getLsbD 3)
        (decide (ones (BitVec.ofNat 8 (k % 8) ^^^ b) % 2 = 0)) (decide (v.toNat ≥ 128)) (decide (k > 255))
    let inputs := fun (i : Instr) (δ : Word) (δ8 : Byte) =>
      let port := mk16 s.b s.c
      let v := s.portAnswer port
      ∃ t, exec i s = .next t ∧ t.byteAt (mk16 s.h s.l) = v ∧ MemKeptOutside [mk16 s.h s.l] s t ∧
        mk16 t.h t.l = mk16 s.h s.l + δ ∧
        t = { s with
          b := s.b - 1, h := t.h, l := t.l, f := t.f, flagQ := true, memptr := port + δ, mem := t.mem
          portIn := s.portIn.tail, portReads := s.portReads + 1
          events := s.events ++ [.portRead port v, .memWrite (mk16 s.h s.l) v] } ∧
        ioFlagsAre t.f (s.b - 1) v (v.toNat + (s.c + δ8).toNat)
    let outputs := fun (i : Instr) (δ : Word) =>
      let port := mk16 (s.b - 1) s.c
      let v := s.byteAt (mk16 s.h s.l)
      ∃ t, exec i s = .next t ∧ MemKept s t ∧ mk16 t.h t.l = mk16 s.h s.l + δ ∧
        t = { s with
          b := s.b - 1, h := t.h, l := t.l, f := t.f, flagQ := true, memptr := port + δ
          events := s.events ++ [.memRead (mk16 s.h s.l), .portWrite port v] } ∧
        ioFlagsAre t.f (s.b - 1) v (v.toNat + t.l.toNat)
    inputs .ini 1 1 ∧ inputs .ind (-1) (-1) ∧ outputs .outi 1 ∧ outputs .outd (-1)

/-- For every operand form, ADD (ADC, with the old C as carry-in) answers a next state in which A is the sum modulo 256, S, Z, 5, 3 come from it, H is the carry out of bit 3, PV the signed overflow, N = 0, C the carry out of bit 7, flagQ is set, MEMPTR is the effective address in the (X+d) form and else unchanged, and every other register and memory are unchanged. -/
def Obligations.AddAndAdc : Prop :=
  ∀ (s : State) (p : AluForm),
    let x := p.value s
    let adds := fun (op : AluOp) (c : Bool) =>
      ∃ t, exec (p.instr op) s = .next t ∧
        (Place.r .a).Written s t (BitVec.ofNat 8 (s.a.toNat + x.toNat + c.toNat)) ∧
        Effect s t t.f true (p.memptr s) ∧ SumFlags s.a x c t.f
    adds .add false ∧ adds .adc (flag .c s.f)

/-- For every operand form, SUB (SBC, with the old C as borrow-in) answers a next state in which A is the difference modulo 256, S, Z, 5, 3 come from it, H is the borrow into bit 4, PV the signed overflow, N = 1, C the borrow, flagQ is set, MEMPTR is the effective address in the (X+d) form and else unchanged, and every other register and memory are unchanged. -/
def Obligations.SubAndSbc : Prop :=
  ∀ (s : State) (p : AluForm),
    let x := p.value s
    let subtracts := fun (op : AluOp) (c : Bool) =>
      let r : Byte := BitVec.ofInt 8 ((s.a.toNat : Int) - x.toNat - c.toNat)
      ∃ t, exec (p.instr op) s = .next t ∧ (Place.r .a).Written s t r ∧ Effect s t t.f true (p.memptr s) ∧
        DiffFlags s.a x c r t.f
    subtracts .sub false ∧ subtracts .sbc (flag .c s.f)

/-- For every operand form, AND, XOR and OR answer a next state in which every bit of A is that operation of the old A's and the operand's bit, S, Z, 5, 3 come from A, H = 1 for AND and 0 for XOR and OR, PV is the parity of A, N = C = 0, flagQ is set, MEMPTR is the effective address in the (X+d) form and else unchanged, and every other register and memory are unchanged. -/
def Obligations.AndXorOr : Prop :=
  ∀ (s : State) (p : AluForm),
    let x := p.value s
    let combines := fun (op : AluOp) (bit : Bool → Bool → Bool) (h : Bool) =>
      ∃ t v, exec (p.instr op) s = .next t ∧ (∀ k < 8, v.getLsbD k = bit (s.a.getLsbD k) (x.getLsbD k)) ∧
        (Place.r .a).Written s t v ∧ Effect s t t.f true (p.memptr s) ∧ ValueFlags v h false false t.f
    combines .and Bool.and true ∧ combines .xor Bool.xor false ∧ combines .or Bool.or false

/-- For every operand form, CP answers a next state with A unchanged and S, Z, H, PV, N, C as SUB would set them, 5 and 3 from the operand, flagQ set, MEMPTR the effective address in the (X+d) form and else unchanged, and every other register and memory unchanged. -/
def Obligations.CompareWithAccumulator : Prop :=
  ∀ (s : State) (p : AluForm),
    ∃ t, exec (p.instr .cp) s = .next t ∧ MemKept s t ∧ DiffFlags s.a (p.value s) false (p.value s) t.f ∧
      t = { s with f := t.f, flagQ := true, memptr := p.memptr s, events := t.events }

/-- For every form, INC (DEC) answers a next state in which the place holds its value plus (minus) 1 modulo 256, S, Z, 5, 3 come from it, H is set when the low nibble wrapped, PV when 0x7F became 0x80 (0x80 became 0x7F), N = 0 (1), C is unchanged, flagQ is set, MEMPTR is the effective address in the (X+d) form and else unchanged, and nothing else changes. -/
def Obligations.IncAndDecBytes : Prop :=
  ∀ (s : State) (p : IncForm),
    let v := p.place.value s
    (let r : Byte := BitVec.ofNat 8 (v.toNat + 1)
     ∃ t, exec p.inc s = .next t ∧ p.place.Written s t r ∧ Effect s t t.f true (p.place.memptr s) ∧
       FlagsAre t.f (decide (r.toNat ≥ 128)) (decide (r = 0)) (r.getLsbD 5) (decide (v.toNat % 16 = 15)) (r.getLsbD 3)
         (decide (v.toNat = 127)) false (flag .c s.f)) ∧
    (let r : Byte := BitVec.ofNat 8 (v.toNat + 255)
     ∃ t, exec p.dec s = .next t ∧ p.place.Written s t r ∧ Effect s t t.f true (p.place.memptr s) ∧
       FlagsAre t.f (decide (r.toNat ≥ 128)) (decide (r = 0)) (r.getLsbD 5) (decide (v.toNat % 16 = 0)) (r.getLsbD 3)
         (decide (v.toNat = 128)) true (flag .c s.f))

/-- DAA gives the A and F of the standard algorithm of 95_test_vectors.md §2 for every A and every C, H, N. NEG, in all eight encodings, gives 0 - A with the flags of that subtraction. SCF sets C and CCF inverts it, with H = 0 and H = the old C; F.5 and F.3 are those of A if the previous instruction set the flags (lastFlagQ), else those of A or the old F; N = 0; S, Z, PV unchanged. Each sets flagQ and changes no register but A and F (SCF and CCF only F). -/
def Obligations.DaaNegScfCcf : Prop :=
  (∀ s : State,
      let low := s.a.toNat % 16
      let big := flag .c s.f || decide (s.a.toNat > 0x99)
      let diff : Nat := (if flag .h s.f || decide (low > 9) then 0x06 else 0) + (if big then 0x60 else 0)
      let r : Byte := if flag .n s.f then BitVec.ofInt 8 ((s.a.toNat : Int) - diff) else BitVec.ofNat 8 (s.a.toNat + diff)
      let half := if flag .n s.f then flag .h s.f && decide (low < 6) else decide (low > 9)
      ∃ t, exec .daa s = .next t ∧ t = { s with a := r, f := t.f, flagQ := true } ∧
        ValueFlags r half (flag .n s.f) big t.f) ∧
    (∀ (s : State) (y : BitVec 3),
      ∃ t, exec (.neg y) s = .next t ∧ t = { s with a := t.a, f := t.f, flagQ := true } ∧
        t.a.toNat = (256 - s.a.toNat) % 256 ∧ DiffFlags 0 s.a false t.a t.f) ∧
    ∀ s : State,
      let bit := fun (k : Nat) => s.a.getLsbD k || (!s.lastFlagQ && s.f.getLsbD k)
      (∃ t, exec .scf s = .next t ∧ t = { s with f := t.f, flagQ := true } ∧
        FlagsAre t.f (flag .s s.f) (flag .z s.f) (bit 5) false (bit 3) (flag .pv s.f) false true) ∧
      ∃ t, exec .ccf s = .next t ∧ t = { s with f := t.f, flagQ := true } ∧
        FlagsAre t.f (flag .s s.f) (flag .z s.f) (bit 5) (flag .c s.f) (bit 3) (flag .pv s.f) false (!flag .c s.f)

/-- CPL answers a next state in which A is 255 minus the old A, H = N = 1, 5 and 3 come from the new A, S, Z, PV and C are unchanged, flagQ is set, and nothing else changes. -/
def Obligations.ComplementAccumulator : Prop :=
  ∀ s : State, ∃ t, exec .cpl s = .next t ∧ t = { s with a := t.a, f := t.f, flagQ := true } ∧
    t.a.toNat = 255 - s.a.toNat ∧
    FlagsAre t.f (flag .s s.f) (flag .z s.f) (t.a.getLsbD 5) true (t.a.getLsbD 3) (flag .pv s.f) true (flag .c s.f)

/-- Each answers a next state in which HL, or X, is the sum modulo 65536, H is the carry out of bit 11, C the carry out of bit 15, 5 and 3 are bits 13 and 11 of the sum, N = 0, S, Z, PV are unchanged, MEMPTR is the old HL, or X, plus 1, flagQ is set, and every other register and memory are unchanged. In ADD X,rp code 10 is X itself. -/
def Obligations.AddWords : Prop :=
  ∀ s : State,
    let adds := fun (i : Instr) (p q : WordPlace) =>
      let a := p.value s
      let b := q.value s
      let r : Word := BitVec.ofNat 16 (a.toNat + b.toNat)
      ∃ t, exec i s = .next t ∧ p.Written s t r ∧ WordEffect s t t.f true (a + 1) ∧
        FlagsAre t.f (flag .s s.f) (flag .z s.f) (r.getLsbD 13) (decide (a.toNat % 4096 + b.toNat % 4096 ≥ 4096))
          (r.getLsbD 11) (flag .pv s.f) false (decide (a.toNat + b.toNat ≥ 65536))
    (∀ k : RegPair, adds (.addHlRp k) (.rp .hl) (.rp k)) ∧
      ∀ (x : IndexReg) (k : IndexPair), adds (.addXRp x k) (.x x) (indexPairPlace x k)

/-- Each answers a next state in which HL is the sum with the old C (the difference with the old C as borrow) modulo 65536, S is bit 15, Z the 16-bit zero test, H the carry out of bit 11 (the borrow into bit 12), PV the signed overflow, N = 0 (1), C the carry out of bit 15 (the borrow), 5 and 3 bits 13 and 11 of the result, MEMPTR is the old HL plus 1, flagQ is set, and every other register and memory are unchanged. -/
def Obligations.AdcAndSbcWords : Prop :=
  ∀ (s : State) (k : RegPair),
    let a := mk16 s.h s.l
    let b := pairValue s k
    let c := (flag .c s.f).toNat
    (let r : Word := BitVec.ofNat 16 (a.toNat + b.toNat + c)
     ∃ t, exec (.adcHlRp k) s = .next t ∧ (WordPlace.rp .hl).Written s t r ∧ WordEffect s t t.f true (a + 1) ∧
       FlagsAre t.f (decide (r.toNat ≥ 32768)) (decide (r = 0)) (r.getLsbD 13)
         (decide (a.toNat % 4096 + b.toNat % 4096 + c ≥ 4096)) (r.getLsbD 11)
         (decide (a.toInt + b.toInt + c ≥ 32768 ∨ a.toInt + b.toInt + c < -32768)) false
         (decide (a.toNat + b.toNat + c ≥ 65536))) ∧
    (let r : Word := BitVec.ofInt 16 ((a.toNat : Int) - b.toNat - c)
     ∃ t, exec (.sbcHlRp k) s = .next t ∧ (WordPlace.rp .hl).Written s t r ∧ WordEffect s t t.f true (a + 1) ∧
       FlagsAre t.f (decide (r.toNat ≥ 32768)) (decide (r = 0)) (r.getLsbD 13)
         (decide (a.toNat % 4096 < b.toNat % 4096 + c)) (r.getLsbD 11)
         (decide (a.toInt - b.toInt - c ≥ 32768 ∨ a.toInt - b.toInt - c < -32768)) true
         (decide (a.toNat < b.toNat + c)))

/-- Each answers a next state in which the pair or index register is its value plus or minus 1 modulo 65536 and every other register, F, flagQ, MEMPTR and memory are unchanged. -/
def Obligations.IncAndDecWords : Prop :=
  ∀ (s : State) (k : RegPair) (x : IndexReg),
    let counts := fun (i : Instr) (p : WordPlace) (n : Nat) =>
      ∃ t, exec i s = .next t ∧ p.Written s t (BitVec.ofNat 16 ((p.value s).toNat + n)) ∧
        WordEffect s t s.f s.flagQ s.memptr
    counts (.incRp k) (.rp k) 1 ∧ counts (.decRp k) (.rp k) 65535 ∧ counts (.incX x) (.x x) 1 ∧
      counts (.decX x) (.x x) 65535

/-- Each answers a next state in which A is rotated as its rule says (through the old C for RLA and RRA), C is the bit shifted out, H = N = 0, 5 and 3 come from the new A, S, Z, PV are unchanged, flagQ is set, and nothing else changes. -/
def Obligations.AccumulatorRotates : Prop :=
  ∀ s : State,
    let rotates := fun (i : Instr) (k : ShiftOp) =>
      ∃ t, exec i s = .next t ∧ t = { s with a := t.a, f := t.f, flagQ := true } ∧
        t.a.toNat = shiftedNat k s.a.toNat (flag .c s.f).toNat ∧
        FlagsAre t.f (flag .s s.f) (flag .z s.f) (t.a.getLsbD 5) false (t.a.getLsbD 3) (flag .pv s.f) false
          (decide (shiftedOut k s.a.toNat = 1))
    rotates .rlca .rlc ∧ rotates .rrca .rrc ∧ rotates .rla .rl ∧ rotates .rra .rr

/-- For every operation and form, the instruction answers a next state in which the place holds the shifted value (in the (X+d),r form both the byte and the plain register r), S, Z, 5, 3 and parity come from it, H = N = 0, C is the bit shifted out, flagQ is set, MEMPTR is the effective address in the (X+d) forms and else unchanged, and nothing else changes. -/
def Obligations.RotatesAndShifts : Prop :=
  ∀ (s : State) (k : ShiftOp) (p : BitForm),
    let v := p.place.value s
    let r : Byte := BitVec.ofNat 8 (shiftedNat k v.toNat (flag .c s.f).toNat)
    ∃ t, exec (p.shift k) s = .next t ∧ p.place.Written s t r ∧ Effect s t t.f true (p.place.memptr s) ∧
      ValueFlags r false false (decide (shiftedOut k v.toNat = 1)) t.f

/-- BIT answers a next state with Z = PV = 1 exactly if the bit is 0, S = 1 exactly if b = 7 and the bit is 1, H = 1, N = 0, C unchanged, 5 and 3 from r in the register form and from the high byte of MEMPTR in the (HL) form, flagQ set, and nothing else changed. -/
def Obligations.BitTests : Prop :=
  ∀ (s : State) (bit : BitVec 3) (r : Reg8),
    let tests := fun (i : Instr) (v xy : Byte) =>
      let set := decide (v.toNat / 2 ^ bit.toNat % 2 = 1)
      ∃ t, exec i s = .next t ∧ MemKept s t ∧ t = { s with f := t.f, flagQ := true, events := t.events } ∧
        FlagsAre t.f (set && decide (bit.toNat = 7)) (!set) (xy.getLsbD 5) true (xy.getLsbD 3) (!set) false (flag .c s.f)
    tests (.bitR bit r) (s.getR8 r) (s.getR8 r) ∧
      tests (.bitHl bit) (s.byteAt (mk16 s.h s.l)) (BitVec.ofNat 8 (s.memptr.toNat / 256))

/-- BIT b,(X+d) answers, for every value of its ignored field z, a next state with the flags of BIT on the byte at the effective address, 5 and 3 from the high byte of that address, MEMPTR at that address, flagQ set, and no other register and no byte of memory changed. -/
def Obligations.BitTestsIndexed : Prop :=
  ∀ (s : State) (x : IndexReg) (d : Byte) (bit z : BitVec 3),
    let v := s.byteAt (s.ea x d)
    let set := decide (v.toNat / 2 ^ bit.toNat % 2 = 1)
    let xy : Byte := BitVec.ofNat 8 ((s.ea x d).toNat / 256)
    ∃ t, exec (.bitXd x d bit z) s = .next t ∧ MemKept s t ∧
      t = { s with f := t.f, flagQ := true, memptr := s.ea x d, events := t.events } ∧
      FlagsAre t.f (set && decide (bit.toNat = 7)) (!set) (xy.getLsbD 5) true (xy.getLsbD 3) (!set) false (flag .c s.f)

/-- For every form, RES (SET) answers a next state in which the place holds its value with bit b cleared (set) and every other bit as before (in the (X+d),r form both the byte and the plain register r), MEMPTR is the effective address in the (X+d) forms and else unchanged, and F, flagQ and everything else are unchanged. -/
def Obligations.ResAndSet : Prop :=
  ∀ (s : State) (bit : BitVec 3) (p : BitForm),
    let v := p.place.value s
    let writes := fun (i : Instr) (b : Bool) =>
      ∃ t r, exec i s = .next t ∧ (∀ k < 8, r.getLsbD k = if k = bit.toNat then b else v.getLsbD k) ∧
        p.place.Written s t r ∧ Effect s t s.f s.flagQ (p.place.memptr s)
    writes (p.res bit) false ∧ writes (p.set bit) true

/-- RLD (RRD) answers a next state in which the low nibble of A and the two nibbles of the byte at HL are rotated left (right) as one 12-bit number, the high nibble of A stays, MEMPTR = HL + 1, S, Z, 5, 3 and parity come from the new A, H = N = 0, C is unchanged, flagQ is set, and every other register and byte of memory are unchanged. -/
def Obligations.DigitRotates : Prop :=
  ∀ s : State,
    let rotates := fun (i : Instr) (digits : Nat → Nat) =>
      let p := mk16 s.h s.l
      let n := digits (s.a.toNat % 16 * 256 + (s.byteAt p).toNat)
      ∃ t, exec i s = .next t ∧ (t.byteAt p).toNat = n % 256 ∧ MemKeptOutside [p] s t ∧
        t.a.toNat = s.a.toNat / 16 * 16 + n / 256 ∧
        t = { s with a := t.a, f := t.f, flagQ := true, memptr := p + 1, mem := t.mem, events := t.events } ∧
        ValueFlags t.a false false (flag .c s.f) t.f
    rotates .rld (fun n => n * 16 % 4096 + n / 256) ∧ rotates .rrd (fun n => n / 16 + n % 16 * 256)

/-- JP nn puts nn in PC and MEMPTR; JP cc,nn puts nn in MEMPTR always and in PC if the condition holds; JP (HL) and JP (X) put the register in PC; JR e, and JR cc,e if the condition holds, put PC plus the signed offset modulo 65536 in PC and MEMPTR; DJNZ takes B down by 1 and jumps so unless B became 0. A jump not taken leaves PC. Nothing else changes. -/
def Obligations.Jumps : Prop :=
  ∀ (s : State) (nn : Word) (cc : Cond) (x : IndexReg) (e : Byte),
    let target : Word := BitVec.ofInt 16 ((s.pc.toNat : Int) + e.toInt)
    let goes := fun (i : Instr) (u : State) => ∃ t, exec i s = .next t ∧ t = u
    goes (.jp nn) { s with pc := nn, memptr := nn } ∧
      (CondHolds cc s.f → goes (.jpCc cc nn) { s with pc := nn, memptr := nn }) ∧
      (¬ CondHolds cc s.f → goes (.jpCc cc nn) { s with memptr := nn }) ∧
      goes .jpHl { s with pc := mk16 s.h s.l } ∧
      goes (.jpX x) { s with pc := s.getX x } ∧
      goes (.jr e) { s with pc := target, memptr := target } ∧
      (CondHolds cc s.f → goes (.jrCc cc e) { s with pc := target, memptr := target }) ∧
      (¬ CondHolds cc s.f → goes (.jrCc cc e) s) ∧
      (s.b ≠ 1 → goes (.djnz e) { s with b := BitVec.ofNat 8 (s.b.toNat + 255), pc := target, memptr := target }) ∧
      (s.b = 1 → goes (.djnz e) { s with b := 0 })

/-- CALL nn, and CALL cc,nn if the condition holds, push PC and put nn in PC and MEMPTR; RST pushes PC and puts 8 times its code in both; CALL cc,nn not taken only puts nn in MEMPTR. RET, and RET cc if the condition holds, put the little-endian word at SP in PC and MEMPTR and take SP up by 2; RET cc not taken changes nothing. No other register and no byte of memory but the two pushed changes. -/
def Obligations.CallsAndReturns : Prop :=
  ∀ (s : State) (nn : Word) (cc : Cond) (y : BitVec 3),
    let calls := fun (i : Instr) (target : Word) =>
      ∃ t u, exec i s = .next t ∧ Pushed s u s.pc ∧ t = { u with pc := target, memptr := target }
    let returns := fun (i : Instr) =>
      ∃ t, exec i s = .next t ∧ MemKept s t ∧
        t = { s with pc := s.wordAt s.sp, memptr := s.wordAt s.sp, sp := s.sp + 2, events := t.events }
    calls (.call nn) nn ∧ (CondHolds cc s.f → calls (.callCc cc nn) nn) ∧
      (¬ CondHolds cc s.f → ∃ t, exec (.callCc cc nn) s = .next t ∧ t = { s with memptr := nn } ∧ MemKept s t) ∧
      calls (.rst y) (BitVec.ofNat 16 (8 * y.toNat)) ∧
      returns .ret ∧ (CondHolds cc s.f → returns (.retCc cc)) ∧
      (¬ CondHolds cc s.f → ∃ t, exec (.retCc cc) s = .next t ∧ t = s)

/-- IN A,(n) reads the port A:n with the old A into A, MEMPTR one more, no flag; IN r,(C) reads the port BC into r and IN (C) into no register, with MEMPTR = BC + 1, S, Z, 5, 3 and parity from the byte, H = N = 0, C unchanged and flagQ set. OUT (n),A writes A to the port A:n with MEMPTR = A * 256 + (n + 1) mod 256; OUT (C),r writes r to the port BC with MEMPTR = BC + 1; neither changes a flag. A port read uses up one answer of PortIn, whatever it is; nothing else changes. That the answers stand in the list portIn, each port read taking its head and counting portReads up, is the model's own form of PortIn (log 3, DESIGN CHOICE; R103 and D3 leave the oracle open). -/
def Obligations.InputAndOutput : Prop :=
  ∀ (s : State) (n : Byte) (r : Reg8),
    let bc := mk16 s.b s.c
    let v := s.portAnswer bc
    (let p := mk16 s.a n
     ∃ t, exec (.inAN n) s = .next t ∧ MemKept s t ∧
       t = { s with
         a := s.portAnswer p, memptr := p + 1, portIn := s.portIn.tail, portReads := s.portReads + 1
         events := s.events ++ [.portRead p (s.portAnswer p)] }) ∧
    (∃ t, exec (.inRC r) s = .next t ∧ (Place.r r).Written s t v ∧ ValueFlags v false false (flag .c s.f) t.f ∧
      t = { s with
        a := t.a, b := t.b, c := t.c, d := t.d, e := t.e, h := t.h, l := t.l, f := t.f, flagQ := true
        memptr := bc + 1, portIn := s.portIn.tail, portReads := s.portReads + 1, events := s.events ++ [.portRead bc v] }) ∧
    (∃ t, exec .inC s = .next t ∧ MemKept s t ∧ ValueFlags v false false (flag .c s.f) t.f ∧
      t = { s with
        f := t.f, flagQ := true, memptr := bc + 1, portIn := s.portIn.tail, portReads := s.portReads + 1
        events := s.events ++ [.portRead bc v] }) ∧
    (∃ t, exec (.outNA n) s = .next t ∧ MemKept s t ∧
      t = { s with
        memptr := BitVec.ofNat 16 (256 * s.a.toNat + (n.toNat + 1) % 256)
        events := s.events ++ [.portWrite (mk16 s.a n) s.a] }) ∧
    ∃ t, exec (.outCR r) s = .next t ∧ MemKept s t ∧
      t = { s with memptr := bc + 1, events := s.events ++ [.portWrite bc (s.getR8 r)] }

/-- NOP changes nothing; HALT sets halted and takes PC down by 1; DI clears both flip-flops, EI sets both and pendingEI; IM 0, 1, 2 and their mirrors set IM; an ED no-op only logs; RETN, in all its encodings, and RETI copy IFF2 into IFF1, put the word at SP in PC and MEMPTR and take SP up by 2; OUT (C),0 writes 0x00 to the port BC with MEMPTR = BC + 1. Nothing else changes. -/
def Obligations.CpuControl : Prop :=
  ∀ (s : State) (y : BitVec 3) (op : Byte),
    let goes := fun (i : Instr) (u : State) => ∃ t, exec i s = .next t ∧ t = u
    let returns := fun (i : Instr) =>
      ∃ t, exec i s = .next t ∧ MemKept s t ∧
        t = { s with
          iff1 := s.iff2, pc := s.wordAt s.sp, memptr := s.wordAt s.sp, sp := s.sp + 2, events := t.events }
    goes .nop s ∧ goes .halt { s with halted := true, pc := s.pc - 1 } ∧
      goes .di { s with iff1 := false, iff2 := false } ∧
      goes .ei { s with iff1 := true, iff2 := true, pendingEI := true } ∧
      goes (.im0 y) { s with im := .im0 } ∧ goes (.im1 y) { s with im := .im1 } ∧ goes (.im2 y) { s with im := .im2 } ∧
      goes (.edNop op) { s with events := s.events ++ [.log] } ∧ returns (.retn y) ∧ returns .reti ∧
      goes .outC0 { s with memptr := mk16 s.b s.c + 1, events := s.events ++ [.portWrite (mk16 s.b s.c) 0x00] }

/-- For every instruction of the table, with every operand, and every state, exec answers a next state: no fault and no refusal. -/
def Obligations.EveryInstructionCompletes : Prop :=
  ∀ (i : Instr) (s : State), ∃ t, exec i s = .next t

end Statements
end

