-- ==== Sys2Proof/Laws/Bits.lean ====
section
/-!
SUPPORT. The laws of the halves of a word (R13), of sign extension (R14), and of a flag byte put together from its parts.
-/

namespace Sys2Proof

theorem mk16_toNat (a b : Byte) : (mk16 a b).toNat = 256 * a.toNat + b.toNat := by
  have h : (mk16 a b).toNat = a.toNat <<< 8 ||| b.toNat := BitVec.toNat_append a b
  rw [h, ← Nat.shiftLeft_add_eq_or_of_lt b.isLt, Nat.shiftLeft_eq]
  omega

theorem hi8_toNat (w : Word) : (hi8 w).toNat = w.toNat / 256 := by
  simp only [hi8, BitVec.extractLsb'_toNat, Nat.shiftRight_eq_div_pow]
  have := w.isLt
  omega

theorem lo8_toNat (w : Word) : (lo8 w).toNat = w.toNat % 256 := by
  simp [lo8, BitVec.extractLsb'_toNat]

@[simp] theorem hi8_mk16 (a b : Byte) : hi8 (mk16 a b) = a := by
  apply BitVec.eq_of_toNat_eq
  rw [hi8_toNat, mk16_toNat]
  have := b.isLt
  omega

@[simp] theorem lo8_mk16 (a b : Byte) : lo8 (mk16 a b) = b := by
  apply BitVec.eq_of_toNat_eq
  rw [lo8_toNat, mk16_toNat]
  have := b.isLt
  omega

@[simp] theorem mk16_hi8_lo8 (w : Word) : mk16 (hi8 w) (lo8 w) = w := by
  apply BitVec.eq_of_toNat_eq
  rw [mk16_toNat, hi8_toNat, lo8_toNat]
  omega

/-- A word from a number, by its halves. -/
theorem mk16_eq_ofNat (a b : Byte) : mk16 a b = BitVec.ofNat 16 (b.toNat + 256 * a.toNat) := by
  apply BitVec.eq_of_toNat_eq
  rw [mk16_toNat, BitVec.toNat_ofNat]
  have := a.isLt
  have := b.isLt
  omega

theorem hi8_getLsbD (w : Word) (k : Nat) : (hi8 w).getLsbD k = (decide (k < 8) && w.getLsbD (8 + k)) := by
  simp [hi8]

theorem lo8_getLsbD (w : Word) (k : Nat) : (lo8 w).getLsbD k = (decide (k < 8) && w.getLsbD k) := by
  simp [lo8]

theorem sext16_toInt (d : Byte) : (sext16 d).toInt = d.toInt := BitVec.toInt_signExtend_of_le (by decide)

/-- A word plus a signed displacement is their sum modulo 65536 (R12, R14). -/
theorem add_sext16 (w : Word) (d : Byte) : w + sext16 d = BitVec.ofInt 16 ((w.toNat : Int) + d.toInt) := by
  apply BitVec.eq_of_toInt_eq
  rw [BitVec.toInt_add, sext16_toInt, BitVec.toInt_ofInt, BitVec.toInt_eq_toNat_bmod w, Int.bmod_add_bmod]

namespace Machine

theorem flagIf_getLsbD (c : Bool) (m : Byte) (k : Nat) : (flagIf c m).getLsbD k = (c && m.getLsbD k) := by
  cases c <;> simp [flagIf]

/-- Two flag bytes with the same eight flags are equal. -/
theorem eq_of_flags {f g : Byte} (h : ∀ k : FlagBit, flag k f = flag k g) : f = g := by
  apply BitVec.eq_of_getLsbD_eq
  intro k hk
  have h7 := h .s; have h6 := h .z; have h5 := h .five; have h4 := h .h
  have h3 := h .three; have h2 := h .pv; have h1 := h .n; have h0 := h .c
  simp only [flag, FlagBit.index] at h7 h6 h5 h4 h3 h2 h1 h0
  interval_cases k <;> assumption

end Machine

end Sys2Proof
end

