-- ==== Sys2Proof/Laws/Memory.lean ====
section
/-!
SUPPORT. The laws of the memory list and of the breakpoint matrix: a write is read back, every other address keeps its
byte, and every operation keeps the canonical form. The first two hold of every list, canonical or not.
-/

namespace Sys2Proof.Machine

/-! ## Memory -/

theorem Memory.read_insert_same (m : Memory) (n : Nat) (v : Byte) : Memory.read (Memory.insert m n v) n = v := by
  induction m with
  | nil => simp [Memory.insert, Memory.read]
  | cons cell rest ih =>
    obtain ⟨k, w⟩ := cell
    by_cases h1 : n < k
    · simp [Memory.insert, h1, Memory.read]
    · by_cases h2 : n = k
      · simp [Memory.insert, h2, Memory.read]
      · simp [Memory.insert, h1, h2, Memory.read, Ne.symm h2, ih]

theorem Memory.read_insert_other (m : Memory) {n n' : Nat} (v : Byte) (h : n' ≠ n) :
    Memory.read (Memory.insert m n v) n' = Memory.read m n' := by
  induction m with
  | nil => simp [Memory.insert, Memory.read, Ne.symm h]
  | cons cell rest ih =>
    obtain ⟨k, w⟩ := cell
    by_cases h1 : n < k
    · simp [Memory.insert, h1, Memory.read, Ne.symm h]
    · by_cases h2 : n = k
      · subst h2; simp [Memory.insert, Memory.read, Ne.symm h]
      · simp [Memory.insert, h1, h2, Memory.read, ih]

theorem Memory.read_filter_same (m : Memory) (n : Nat) :
    Memory.read (m.filter (fun cell => cell.1 != n)) n = Config.unlistedByte := by
  induction m with
  | nil => rfl
  | cons cell rest ih =>
    by_cases h : cell.1 = n
    · simp [h, ih]
    · simp [h, Memory.read, ih]

theorem Memory.read_filter_other (m : Memory) {n n' : Nat} (h : n' ≠ n) :
    Memory.read (m.filter (fun cell => cell.1 != n)) n' = Memory.read m n' := by
  induction m with
  | nil => rfl
  | cons cell rest ih =>
    by_cases hk : cell.1 = n
    · simp [hk, Memory.read, Ne.symm h, ih]
    · simp [hk, Memory.read, ih]

/-- A read after a write to the same address gives the value written (R100). -/
@[simp] theorem Memory.read_write_same (m : Memory) (n : Nat) (v : Byte) : Memory.read (Memory.write m n v) n = v := by
  unfold Memory.write
  split
  · next h => rw [Memory.read_filter_same, h]
  · exact Memory.read_insert_same m n v

/-- A write leaves every other address alone (R100). -/
theorem Memory.read_write_other (m : Memory) {n n' : Nat} (v : Byte) (h : n' ≠ n) :
    Memory.read (Memory.write m n v) n' = Memory.read m n' := by
  unfold Memory.write
  split
  · exact Memory.read_filter_other m h
  · exact Memory.read_insert_other m v h

/-- What a read gives after a write. -/
theorem Memory.read_write (m : Memory) (n n' : Nat) (v : Byte) :
    Memory.read (Memory.write m n v) n' = if n' = n then v else Memory.read m n' := by
  split
  · next h => rw [h, Memory.read_write_same]
  · next h => exact Memory.read_write_other m v h

theorem Memory.mem_insert {m : Memory} {n : Nat} {v : Byte} {cell : Host.Cell} (h : cell ∈ Memory.insert m n v) :
    cell = (n, v) ∨ cell ∈ m := by
  induction m with
  | nil => simpa [Memory.insert] using h
  | cons head rest ih =>
    obtain ⟨k, w⟩ := head
    simp only [Memory.insert] at h
    split at h
    · simpa using h
    · split at h
      · rcases List.mem_cons.1 h with h | h
        · exact .inl h
        · exact .inr (List.mem_cons_of_mem _ h)
      · rcases List.mem_cons.1 h with h | h
        · exact .inr (by simp [h])
        · rcases ih h with h | h
          · exact .inl h
          · exact .inr (List.mem_cons_of_mem _ h)

theorem Memory.wf_cons {k : Nat} {v : Byte} {rest : Memory} :
    Memory.wf ((k, v) :: rest) = true ↔
      k < 65536 ∧ v ≠ Config.unlistedByte ∧ (∀ cell ∈ rest, k < cell.1) ∧ Memory.wf rest = true := by
  simp [Memory.wf, and_assoc]

theorem Memory.insert_wf {m : Memory} {n : Nat} {v : Byte} (hn : n < 65536) (hv : v ≠ Config.unlistedByte)
    (hm : Memory.wf m = true) : Memory.wf (Memory.insert m n v) = true := by
  induction m with
  | nil => simp [Memory.insert, Memory.wf, hn, hv]
  | cons cell rest ih =>
    obtain ⟨k, w⟩ := cell
    obtain ⟨hk, hw, hlt, hrest⟩ := Memory.wf_cons.1 hm
    by_cases h1 : n < k
    · simp only [Memory.insert, h1, if_true]
      refine Memory.wf_cons.2 ⟨hn, hv, fun cell hc => ?_, hm⟩
      rcases List.mem_cons.1 hc with rfl | hc
      · exact h1
      · exact lt_trans h1 (hlt _ hc)
    · by_cases h2 : n = k
      · subst h2
        simp only [Memory.insert, lt_irrefl, if_false, if_true]
        exact Memory.wf_cons.2 ⟨hn, hv, hlt, hrest⟩
      · simp only [Memory.insert, h1, h2, if_false]
        refine Memory.wf_cons.2 ⟨hk, hw, fun cell hc => ?_, ih hrest⟩
        rcases Memory.mem_insert hc with rfl | hc
        · exact lt_of_le_of_ne (not_lt.1 h1) (Ne.symm h2)
        · exact hlt _ hc

theorem Memory.filter_wf {m : Memory} (p : Host.Cell → Bool) (hm : Memory.wf m = true) :
    Memory.wf (m.filter p) = true := by
  induction m with
  | nil => rfl
  | cons cell rest ih =>
    obtain ⟨k, w⟩ := cell
    obtain ⟨hk, hw, hlt, hrest⟩ := Memory.wf_cons.1 hm
    by_cases h : p (k, w) = true
    · rw [List.filter_cons_of_pos h]
      exact Memory.wf_cons.2 ⟨hk, hw, fun c hc => hlt c (List.mem_filter.1 hc).1, ih hrest⟩
    · rw [List.filter_cons_of_neg h]
      exact ih hrest

/-- A write keeps the canonical form. -/
theorem Memory.write_wf {m : Memory} {n : Nat} {v : Byte} (hn : n < 65536) (hm : Memory.wf m = true) :
    Memory.wf (Memory.write m n v) = true := by
  unfold Memory.write
  split
  · exact Memory.filter_wf _ hm
  · next h => exact Memory.insert_wf hn h hm

/-! ## Breakpoints -/

theorem bpInsert_contains (m : List Nat) (n n' : Nat) :
    (bpInsert m n).contains n' = (m.contains n' || n' == n) := by
  induction m with
  | nil => simp only [bpInsert, List.contains_cons, List.contains_nil, Bool.or_false, Bool.false_or]
  | cons k rest ih =>
    by_cases h1 : n < k
    · simp only [bpInsert, h1, if_true, List.contains_cons]
      cases (n' == n) <;> simp
    · by_cases h2 : n = k
      · subst h2
        simp only [bpInsert, lt_irrefl, if_false, if_true, List.contains_cons]
        cases (n' == n) <;> simp
      · simp only [bpInsert, h1, h2, if_false, List.contains_cons, ih, Bool.or_assoc]

theorem bpErase_contains (m : List Nat) (n n' : Nat) :
    (bpErase m n).contains n' = (m.contains n' && n' != n) := by
  rw [Bool.eq_iff_iff]
  simp [bpErase, List.mem_filter]

theorem mem_bpInsert {m : List Nat} {n k : Nat} (h : k ∈ bpInsert m n) : k = n ∨ k ∈ m := by
  have hc := bpInsert_contains m n k
  rw [List.contains_iff_mem.2 h] at hc
  rcases Bool.or_eq_true_iff.1 hc.symm with h | h
  · exact .inr (List.contains_iff_mem.1 h)
  · exact .inl (by simpa using h)

theorem bpWf_cons {k : Nat} {rest : List Nat} :
    bpWf (k :: rest) = true ↔ k < 65536 ∧ (∀ n ∈ rest, k < n) ∧ bpWf rest = true := by
  simp [bpWf, and_assoc]

/-- Setting a breakpoint keeps the canonical form. -/
theorem bpInsert_wf {m : List Nat} {n : Nat} (hn : n < 65536) (hm : bpWf m = true) : bpWf (bpInsert m n) = true := by
  induction m with
  | nil => simp [bpInsert, bpWf, hn]
  | cons k rest ih =>
    obtain ⟨hk, hlt, hrest⟩ := bpWf_cons.1 hm
    by_cases h1 : n < k
    · simp only [bpInsert, h1, if_true]
      refine bpWf_cons.2 ⟨hn, fun c hc => ?_, hm⟩
      rcases List.mem_cons.1 hc with rfl | hc
      · exact h1
      · exact lt_trans h1 (hlt _ hc)
    · by_cases h2 : n = k
      · subst h2
        simpa only [bpInsert, lt_irrefl, if_false, if_true] using hm
      · simp only [bpInsert, h1, h2, if_false]
        refine bpWf_cons.2 ⟨hk, fun c hc => ?_, ih hrest⟩
        rcases mem_bpInsert hc with rfl | hc
        · exact lt_of_le_of_ne (not_lt.1 h1) (Ne.symm h2)
        · exact hlt _ hc

/-- Clearing a breakpoint keeps the canonical form. -/
theorem bpErase_wf {m : List Nat} {n : Nat} (hm : bpWf m = true) : bpWf (bpErase m n) = true := by
  induction m with
  | nil => rfl
  | cons k rest ih =>
    obtain ⟨hk, hlt, hrest⟩ := bpWf_cons.1 hm
    by_cases h : k = n
    · have he : bpErase (k :: rest) n = bpErase rest n := by simp [bpErase, h]
      rw [he]
      exact ih hrest
    · have he : bpErase (k :: rest) n = k :: bpErase rest n := by simp [bpErase, h]
      rw [he]
      exact bpWf_cons.2 ⟨hk, fun c hc => hlt c (List.mem_filter.1 hc).1, ih hrest⟩

end Sys2Proof.Machine
end

