-- ==== Sys2Proof/Laws/State.lean ====
section
/-!
SUPPORT. One lemma per field per update: what each named operation leaves in each field of the state. The registers that
`setR8`, `setX`, `setRp` and `setQq` may write are read back through their accessors in Laws/Ops.lean.
-/

namespace Sys2Proof.Machine

/-! ## emit -/

@[simp] theorem State.emit_a (s : State) (ev : Event) : (s.emit ev).a = s.a := rfl
@[simp] theorem State.emit_f (s : State) (ev : Event) : (s.emit ev).f = s.f := rfl
@[simp] theorem State.emit_b (s : State) (ev : Event) : (s.emit ev).b = s.b := rfl
@[simp] theorem State.emit_c (s : State) (ev : Event) : (s.emit ev).c = s.c := rfl
@[simp] theorem State.emit_d (s : State) (ev : Event) : (s.emit ev).d = s.d := rfl
@[simp] theorem State.emit_e (s : State) (ev : Event) : (s.emit ev).e = s.e := rfl
@[simp] theorem State.emit_h (s : State) (ev : Event) : (s.emit ev).h = s.h := rfl
@[simp] theorem State.emit_l (s : State) (ev : Event) : (s.emit ev).l = s.l := rfl
@[simp] theorem State.emit_a' (s : State) (ev : Event) : (s.emit ev).a' = s.a' := rfl
@[simp] theorem State.emit_f' (s : State) (ev : Event) : (s.emit ev).f' = s.f' := rfl
@[simp] theorem State.emit_b' (s : State) (ev : Event) : (s.emit ev).b' = s.b' := rfl
@[simp] theorem State.emit_c' (s : State) (ev : Event) : (s.emit ev).c' = s.c' := rfl
@[simp] theorem State.emit_d' (s : State) (ev : Event) : (s.emit ev).d' = s.d' := rfl
@[simp] theorem State.emit_e' (s : State) (ev : Event) : (s.emit ev).e' = s.e' := rfl
@[simp] theorem State.emit_h' (s : State) (ev : Event) : (s.emit ev).h' = s.h' := rfl
@[simp] theorem State.emit_l' (s : State) (ev : Event) : (s.emit ev).l' = s.l' := rfl
@[simp] theorem State.emit_pc (s : State) (ev : Event) : (s.emit ev).pc = s.pc := rfl
@[simp] theorem State.emit_sp (s : State) (ev : Event) : (s.emit ev).sp = s.sp := rfl
@[simp] theorem State.emit_ix (s : State) (ev : Event) : (s.emit ev).ix = s.ix := rfl
@[simp] theorem State.emit_iy (s : State) (ev : Event) : (s.emit ev).iy = s.iy := rfl
@[simp] theorem State.emit_i (s : State) (ev : Event) : (s.emit ev).i = s.i := rfl
@[simp] theorem State.emit_r (s : State) (ev : Event) : (s.emit ev).r = s.r := rfl
@[simp] theorem State.emit_iff1 (s : State) (ev : Event) : (s.emit ev).iff1 = s.iff1 := rfl
@[simp] theorem State.emit_iff2 (s : State) (ev : Event) : (s.emit ev).iff2 = s.iff2 := rfl
@[simp] theorem State.emit_im (s : State) (ev : Event) : (s.emit ev).im = s.im := rfl
@[simp] theorem State.emit_pendingEI (s : State) (ev : Event) : (s.emit ev).pendingEI = s.pendingEI := rfl
@[simp] theorem State.emit_halted (s : State) (ev : Event) : (s.emit ev).halted = s.halted := rfl
@[simp] theorem State.emit_activeNMI (s : State) (ev : Event) : (s.emit ev).activeNMI = s.activeNMI := rfl
@[simp] theorem State.emit_activeINT (s : State) (ev : Event) : (s.emit ev).activeINT = s.activeINT := rfl
@[simp] theorem State.emit_memptr (s : State) (ev : Event) : (s.emit ev).memptr = s.memptr := rfl
@[simp] theorem State.emit_flagQ (s : State) (ev : Event) : (s.emit ev).flagQ = s.flagQ := rfl
@[simp] theorem State.emit_lastFlagQ (s : State) (ev : Event) : (s.emit ev).lastFlagQ = s.lastFlagQ := rfl
@[simp] theorem State.emit_lastPC (s : State) (ev : Event) : (s.emit ev).lastPC = s.lastPC := rfl
@[simp] theorem State.emit_bp (s : State) (ev : Event) : (s.emit ev).bp = s.bp := rfl
@[simp] theorem State.emit_mem (s : State) (ev : Event) : (s.emit ev).mem = s.mem := rfl
@[simp] theorem State.emit_portIn (s : State) (ev : Event) : (s.emit ev).portIn = s.portIn := rfl
@[simp] theorem State.emit_portReads (s : State) (ev : Event) : (s.emit ev).portReads = s.portReads := rfl
@[simp] theorem State.emit_events (s : State) (ev : Event) : (s.emit ev).events = s.events ++ [ev] := rfl

/-! ## memWrite -/

@[simp] theorem State.memWrite_a (s : State) (p : Word) (v : Byte) : (s.memWrite p v).a = s.a := rfl
@[simp] theorem State.memWrite_f (s : State) (p : Word) (v : Byte) : (s.memWrite p v).f = s.f := rfl
@[simp] theorem State.memWrite_b (s : State) (p : Word) (v : Byte) : (s.memWrite p v).b = s.b := rfl
@[simp] theorem State.memWrite_c (s : State) (p : Word) (v : Byte) : (s.memWrite p v).c = s.c := rfl
@[simp] theorem State.memWrite_d (s : State) (p : Word) (v : Byte) : (s.memWrite p v).d = s.d := rfl
@[simp] theorem State.memWrite_e (s : State) (p : Word) (v : Byte) : (s.memWrite p v).e = s.e := rfl
@[simp] theorem State.memWrite_h (s : State) (p : Word) (v : Byte) : (s.memWrite p v).h = s.h := rfl
@[simp] theorem State.memWrite_l (s : State) (p : Word) (v : Byte) : (s.memWrite p v).l = s.l := rfl
@[simp] theorem State.memWrite_a' (s : State) (p : Word) (v : Byte) : (s.memWrite p v).a' = s.a' := rfl
@[simp] theorem State.memWrite_f' (s : State) (p : Word) (v : Byte) : (s.memWrite p v).f' = s.f' := rfl
@[simp] theorem State.memWrite_b' (s : State) (p : Word) (v : Byte) : (s.memWrite p v).b' = s.b' := rfl
@[simp] theorem State.memWrite_c' (s : State) (p : Word) (v : Byte) : (s.memWrite p v).c' = s.c' := rfl
@[simp] theorem State.memWrite_d' (s : State) (p : Word) (v : Byte) : (s.memWrite p v).d' = s.d' := rfl
@[simp] theorem State.memWrite_e' (s : State) (p : Word) (v : Byte) : (s.memWrite p v).e' = s.e' := rfl
@[simp] theorem State.memWrite_h' (s : State) (p : Word) (v : Byte) : (s.memWrite p v).h' = s.h' := rfl
@[simp] theorem State.memWrite_l' (s : State) (p : Word) (v : Byte) : (s.memWrite p v).l' = s.l' := rfl
@[simp] theorem State.memWrite_pc (s : State) (p : Word) (v : Byte) : (s.memWrite p v).pc = s.pc := rfl
@[simp] theorem State.memWrite_sp (s : State) (p : Word) (v : Byte) : (s.memWrite p v).sp = s.sp := rfl
@[simp] theorem State.memWrite_ix (s : State) (p : Word) (v : Byte) : (s.memWrite p v).ix = s.ix := rfl
@[simp] theorem State.memWrite_iy (s : State) (p : Word) (v : Byte) : (s.memWrite p v).iy = s.iy := rfl
@[simp] theorem State.memWrite_i (s : State) (p : Word) (v : Byte) : (s.memWrite p v).i = s.i := rfl
@[simp] theorem State.memWrite_r (s : State) (p : Word) (v : Byte) : (s.memWrite p v).r = s.r := rfl
@[simp] theorem State.memWrite_iff1 (s : State) (p : Word) (v : Byte) : (s.memWrite p v).iff1 = s.iff1 := rfl
@[simp] theorem State.memWrite_iff2 (s : State) (p : Word) (v : Byte) : (s.memWrite p v).iff2 = s.iff2 := rfl
@[simp] theorem State.memWrite_im (s : State) (p : Word) (v : Byte) : (s.memWrite p v).im = s.im := rfl
@[simp] theorem State.memWrite_pendingEI (s : State) (p : Word) (v : Byte) : (s.memWrite p v).pendingEI = s.pendingEI := rfl
@[simp] theorem State.memWrite_halted (s : State) (p : Word) (v : Byte) : (s.memWrite p v).halted = s.halted := rfl
@[simp] theorem State.memWrite_activeNMI (s : State) (p : Word) (v : Byte) : (s.memWrite p v).activeNMI = s.activeNMI := rfl
@[simp] theorem State.memWrite_activeINT (s : State) (p : Word) (v : Byte) : (s.memWrite p v).activeINT = s.activeINT := rfl
@[simp] theorem State.memWrite_memptr (s : State) (p : Word) (v : Byte) : (s.memWrite p v).memptr = s.memptr := rfl
@[simp] theorem State.memWrite_flagQ (s : State) (p : Word) (v : Byte) : (s.memWrite p v).flagQ = s.flagQ := rfl
@[simp] theorem State.memWrite_lastFlagQ (s : State) (p : Word) (v : Byte) : (s.memWrite p v).lastFlagQ = s.lastFlagQ := rfl
@[simp] theorem State.memWrite_lastPC (s : State) (p : Word) (v : Byte) : (s.memWrite p v).lastPC = s.lastPC := rfl
@[simp] theorem State.memWrite_bp (s : State) (p : Word) (v : Byte) : (s.memWrite p v).bp = s.bp := rfl
@[simp] theorem State.memWrite_mem (s : State) (p : Word) (v : Byte) : (s.memWrite p v).mem = s.mem.write p.toNat v := rfl
@[simp] theorem State.memWrite_portIn (s : State) (p : Word) (v : Byte) : (s.memWrite p v).portIn = s.portIn := rfl
@[simp] theorem State.memWrite_portReads (s : State) (p : Word) (v : Byte) : (s.memWrite p v).portReads = s.portReads := rfl
@[simp] theorem State.memWrite_events (s : State) (p : Word) (v : Byte) : (s.memWrite p v).events = s.events ++ [.memWrite p v] := rfl

/-! ## incR -/

@[simp] theorem State.incR_a (s : State) : (s.incR).a = s.a := rfl
@[simp] theorem State.incR_f (s : State) : (s.incR).f = s.f := rfl
@[simp] theorem State.incR_b (s : State) : (s.incR).b = s.b := rfl
@[simp] theorem State.incR_c (s : State) : (s.incR).c = s.c := rfl
@[simp] theorem State.incR_d (s : State) : (s.incR).d = s.d := rfl
@[simp] theorem State.incR_e (s : State) : (s.incR).e = s.e := rfl
@[simp] theorem State.incR_h (s : State) : (s.incR).h = s.h := rfl
@[simp] theorem State.incR_l (s : State) : (s.incR).l = s.l := rfl
@[simp] theorem State.incR_a' (s : State) : (s.incR).a' = s.a' := rfl
@[simp] theorem State.incR_f' (s : State) : (s.incR).f' = s.f' := rfl
@[simp] theorem State.incR_b' (s : State) : (s.incR).b' = s.b' := rfl
@[simp] theorem State.incR_c' (s : State) : (s.incR).c' = s.c' := rfl
@[simp] theorem State.incR_d' (s : State) : (s.incR).d' = s.d' := rfl
@[simp] theorem State.incR_e' (s : State) : (s.incR).e' = s.e' := rfl
@[simp] theorem State.incR_h' (s : State) : (s.incR).h' = s.h' := rfl
@[simp] theorem State.incR_l' (s : State) : (s.incR).l' = s.l' := rfl
@[simp] theorem State.incR_pc (s : State) : (s.incR).pc = s.pc := rfl
@[simp] theorem State.incR_sp (s : State) : (s.incR).sp = s.sp := rfl
@[simp] theorem State.incR_ix (s : State) : (s.incR).ix = s.ix := rfl
@[simp] theorem State.incR_iy (s : State) : (s.incR).iy = s.iy := rfl
@[simp] theorem State.incR_i (s : State) : (s.incR).i = s.i := rfl
@[simp] theorem State.incR_r (s : State) : (s.incR).r = (s.r &&& 0x80) ||| ((s.r + 1) &&& 0x7F) := rfl
@[simp] theorem State.incR_iff1 (s : State) : (s.incR).iff1 = s.iff1 := rfl
@[simp] theorem State.incR_iff2 (s : State) : (s.incR).iff2 = s.iff2 := rfl
@[simp] theorem State.incR_im (s : State) : (s.incR).im = s.im := rfl
@[simp] theorem State.incR_pendingEI (s : State) : (s.incR).pendingEI = s.pendingEI := rfl
@[simp] theorem State.incR_halted (s : State) : (s.incR).halted = s.halted := rfl
@[simp] theorem State.incR_activeNMI (s : State) : (s.incR).activeNMI = s.activeNMI := rfl
@[simp] theorem State.incR_activeINT (s : State) : (s.incR).activeINT = s.activeINT := rfl
@[simp] theorem State.incR_memptr (s : State) : (s.incR).memptr = s.memptr := rfl
@[simp] theorem State.incR_flagQ (s : State) : (s.incR).flagQ = s.flagQ := rfl
@[simp] theorem State.incR_lastFlagQ (s : State) : (s.incR).lastFlagQ = s.lastFlagQ := rfl
@[simp] theorem State.incR_lastPC (s : State) : (s.incR).lastPC = s.lastPC := rfl
@[simp] theorem State.incR_bp (s : State) : (s.incR).bp = s.bp := rfl
@[simp] theorem State.incR_mem (s : State) : (s.incR).mem = s.mem := rfl
@[simp] theorem State.incR_portIn (s : State) : (s.incR).portIn = s.portIn := rfl
@[simp] theorem State.incR_portReads (s : State) : (s.incR).portReads = s.portReads := rfl
@[simp] theorem State.incR_events (s : State) : (s.incR).events = s.events := rfl

/-! ## m1 -/

@[simp] theorem State.m1_a (s : State) : (s.m1).a = s.a := rfl
@[simp] theorem State.m1_f (s : State) : (s.m1).f = s.f := rfl
@[simp] theorem State.m1_b (s : State) : (s.m1).b = s.b := rfl
@[simp] theorem State.m1_c (s : State) : (s.m1).c = s.c := rfl
@[simp] theorem State.m1_d (s : State) : (s.m1).d = s.d := rfl
@[simp] theorem State.m1_e (s : State) : (s.m1).e = s.e := rfl
@[simp] theorem State.m1_h (s : State) : (s.m1).h = s.h := rfl
@[simp] theorem State.m1_l (s : State) : (s.m1).l = s.l := rfl
@[simp] theorem State.m1_a' (s : State) : (s.m1).a' = s.a' := rfl
@[simp] theorem State.m1_f' (s : State) : (s.m1).f' = s.f' := rfl
@[simp] theorem State.m1_b' (s : State) : (s.m1).b' = s.b' := rfl
@[simp] theorem State.m1_c' (s : State) : (s.m1).c' = s.c' := rfl
@[simp] theorem State.m1_d' (s : State) : (s.m1).d' = s.d' := rfl
@[simp] theorem State.m1_e' (s : State) : (s.m1).e' = s.e' := rfl
@[simp] theorem State.m1_h' (s : State) : (s.m1).h' = s.h' := rfl
@[simp] theorem State.m1_l' (s : State) : (s.m1).l' = s.l' := rfl
@[simp] theorem State.m1_pc (s : State) : (s.m1).pc = s.pc + 1 := rfl
@[simp] theorem State.m1_sp (s : State) : (s.m1).sp = s.sp := rfl
@[simp] theorem State.m1_ix (s : State) : (s.m1).ix = s.ix := rfl
@[simp] theorem State.m1_iy (s : State) : (s.m1).iy = s.iy := rfl
@[simp] theorem State.m1_i (s : State) : (s.m1).i = s.i := rfl
@[simp] theorem State.m1_r (s : State) : (s.m1).r = s.incR.r := rfl
@[simp] theorem State.m1_iff1 (s : State) : (s.m1).iff1 = s.iff1 := rfl
@[simp] theorem State.m1_iff2 (s : State) : (s.m1).iff2 = s.iff2 := rfl
@[simp] theorem State.m1_im (s : State) : (s.m1).im = s.im := rfl
@[simp] theorem State.m1_pendingEI (s : State) : (s.m1).pendingEI = s.pendingEI := rfl
@[simp] theorem State.m1_halted (s : State) : (s.m1).halted = s.halted := rfl
@[simp] theorem State.m1_activeNMI (s : State) : (s.m1).activeNMI = s.activeNMI := rfl
@[simp] theorem State.m1_activeINT (s : State) : (s.m1).activeINT = s.activeINT := rfl
@[simp] theorem State.m1_memptr (s : State) : (s.m1).memptr = s.memptr := rfl
@[simp] theorem State.m1_flagQ (s : State) : (s.m1).flagQ = s.flagQ := rfl
@[simp] theorem State.m1_lastFlagQ (s : State) : (s.m1).lastFlagQ = s.lastFlagQ := rfl
@[simp] theorem State.m1_lastPC (s : State) : (s.m1).lastPC = s.lastPC := rfl
@[simp] theorem State.m1_bp (s : State) : (s.m1).bp = s.bp := rfl
@[simp] theorem State.m1_mem (s : State) : (s.m1).mem = s.mem := rfl
@[simp] theorem State.m1_portIn (s : State) : (s.m1).portIn = s.portIn := rfl
@[simp] theorem State.m1_portReads (s : State) : (s.m1).portReads = s.portReads := rfl
@[simp] theorem State.m1_events (s : State) : (s.m1).events = s.events ++ [.fetch s.pc] := rfl

/-! ## fetchOperand -/

@[simp] theorem State.fetchOperand_a (s : State) : (s.fetchOperand).a = s.a := rfl
@[simp] theorem State.fetchOperand_f (s : State) : (s.fetchOperand).f = s.f := rfl
@[simp] theorem State.fetchOperand_b (s : State) : (s.fetchOperand).b = s.b := rfl
@[simp] theorem State.fetchOperand_c (s : State) : (s.fetchOperand).c = s.c := rfl
@[simp] theorem State.fetchOperand_d (s : State) : (s.fetchOperand).d = s.d := rfl
@[simp] theorem State.fetchOperand_e (s : State) : (s.fetchOperand).e = s.e := rfl
@[simp] theorem State.fetchOperand_h (s : State) : (s.fetchOperand).h = s.h := rfl
@[simp] theorem State.fetchOperand_l (s : State) : (s.fetchOperand).l = s.l := rfl
@[simp] theorem State.fetchOperand_a' (s : State) : (s.fetchOperand).a' = s.a' := rfl
@[simp] theorem State.fetchOperand_f' (s : State) : (s.fetchOperand).f' = s.f' := rfl
@[simp] theorem State.fetchOperand_b' (s : State) : (s.fetchOperand).b' = s.b' := rfl
@[simp] theorem State.fetchOperand_c' (s : State) : (s.fetchOperand).c' = s.c' := rfl
@[simp] theorem State.fetchOperand_d' (s : State) : (s.fetchOperand).d' = s.d' := rfl
@[simp] theorem State.fetchOperand_e' (s : State) : (s.fetchOperand).e' = s.e' := rfl
@[simp] theorem State.fetchOperand_h' (s : State) : (s.fetchOperand).h' = s.h' := rfl
@[simp] theorem State.fetchOperand_l' (s : State) : (s.fetchOperand).l' = s.l' := rfl
@[simp] theorem State.fetchOperand_pc (s : State) : (s.fetchOperand).pc = s.pc + 1 := rfl
@[simp] theorem State.fetchOperand_sp (s : State) : (s.fetchOperand).sp = s.sp := rfl
@[simp] theorem State.fetchOperand_ix (s : State) : (s.fetchOperand).ix = s.ix := rfl
@[simp] theorem State.fetchOperand_iy (s : State) : (s.fetchOperand).iy = s.iy := rfl
@[simp] theorem State.fetchOperand_i (s : State) : (s.fetchOperand).i = s.i := rfl
@[simp] theorem State.fetchOperand_r (s : State) : (s.fetchOperand).r = s.r := rfl
@[simp] theorem State.fetchOperand_iff1 (s : State) : (s.fetchOperand).iff1 = s.iff1 := rfl
@[simp] theorem State.fetchOperand_iff2 (s : State) : (s.fetchOperand).iff2 = s.iff2 := rfl
@[simp] theorem State.fetchOperand_im (s : State) : (s.fetchOperand).im = s.im := rfl
@[simp] theorem State.fetchOperand_pendingEI (s : State) : (s.fetchOperand).pendingEI = s.pendingEI := rfl
@[simp] theorem State.fetchOperand_halted (s : State) : (s.fetchOperand).halted = s.halted := rfl
@[simp] theorem State.fetchOperand_activeNMI (s : State) : (s.fetchOperand).activeNMI = s.activeNMI := rfl
@[simp] theorem State.fetchOperand_activeINT (s : State) : (s.fetchOperand).activeINT = s.activeINT := rfl
@[simp] theorem State.fetchOperand_memptr (s : State) : (s.fetchOperand).memptr = s.memptr := rfl
@[simp] theorem State.fetchOperand_flagQ (s : State) : (s.fetchOperand).flagQ = s.flagQ := rfl
@[simp] theorem State.fetchOperand_lastFlagQ (s : State) : (s.fetchOperand).lastFlagQ = s.lastFlagQ := rfl
@[simp] theorem State.fetchOperand_lastPC (s : State) : (s.fetchOperand).lastPC = s.lastPC := rfl
@[simp] theorem State.fetchOperand_bp (s : State) : (s.fetchOperand).bp = s.bp := rfl
@[simp] theorem State.fetchOperand_mem (s : State) : (s.fetchOperand).mem = s.mem := rfl
@[simp] theorem State.fetchOperand_portIn (s : State) : (s.fetchOperand).portIn = s.portIn := rfl
@[simp] theorem State.fetchOperand_portReads (s : State) : (s.fetchOperand).portReads = s.portReads := rfl
@[simp] theorem State.fetchOperand_events (s : State) : (s.fetchOperand).events = s.events ++ [.memRead s.pc] := rfl

/-! ## setFlags -/

@[simp] theorem State.setFlags_a (s : State) (f : Byte) : (s.setFlags f).a = s.a := rfl
@[simp] theorem State.setFlags_f (s : State) (f : Byte) : (s.setFlags f).f = f := rfl
@[simp] theorem State.setFlags_b (s : State) (f : Byte) : (s.setFlags f).b = s.b := rfl
@[simp] theorem State.setFlags_c (s : State) (f : Byte) : (s.setFlags f).c = s.c := rfl
@[simp] theorem State.setFlags_d (s : State) (f : Byte) : (s.setFlags f).d = s.d := rfl
@[simp] theorem State.setFlags_e (s : State) (f : Byte) : (s.setFlags f).e = s.e := rfl
@[simp] theorem State.setFlags_h (s : State) (f : Byte) : (s.setFlags f).h = s.h := rfl
@[simp] theorem State.setFlags_l (s : State) (f : Byte) : (s.setFlags f).l = s.l := rfl
@[simp] theorem State.setFlags_a' (s : State) (f : Byte) : (s.setFlags f).a' = s.a' := rfl
@[simp] theorem State.setFlags_f' (s : State) (f : Byte) : (s.setFlags f).f' = s.f' := rfl
@[simp] theorem State.setFlags_b' (s : State) (f : Byte) : (s.setFlags f).b' = s.b' := rfl
@[simp] theorem State.setFlags_c' (s : State) (f : Byte) : (s.setFlags f).c' = s.c' := rfl
@[simp] theorem State.setFlags_d' (s : State) (f : Byte) : (s.setFlags f).d' = s.d' := rfl
@[simp] theorem State.setFlags_e' (s : State) (f : Byte) : (s.setFlags f).e' = s.e' := rfl
@[simp] theorem State.setFlags_h' (s : State) (f : Byte) : (s.setFlags f).h' = s.h' := rfl
@[simp] theorem State.setFlags_l' (s : State) (f : Byte) : (s.setFlags f).l' = s.l' := rfl
@[simp] theorem State.setFlags_pc (s : State) (f : Byte) : (s.setFlags f).pc = s.pc := rfl
@[simp] theorem State.setFlags_sp (s : State) (f : Byte) : (s.setFlags f).sp = s.sp := rfl
@[simp] theorem State.setFlags_ix (s : State) (f : Byte) : (s.setFlags f).ix = s.ix := rfl
@[simp] theorem State.setFlags_iy (s : State) (f : Byte) : (s.setFlags f).iy = s.iy := rfl
@[simp] theorem State.setFlags_i (s : State) (f : Byte) : (s.setFlags f).i = s.i := rfl
@[simp] theorem State.setFlags_r (s : State) (f : Byte) : (s.setFlags f).r = s.r := rfl
@[simp] theorem State.setFlags_iff1 (s : State) (f : Byte) : (s.setFlags f).iff1 = s.iff1 := rfl
@[simp] theorem State.setFlags_iff2 (s : State) (f : Byte) : (s.setFlags f).iff2 = s.iff2 := rfl
@[simp] theorem State.setFlags_im (s : State) (f : Byte) : (s.setFlags f).im = s.im := rfl
@[simp] theorem State.setFlags_pendingEI (s : State) (f : Byte) : (s.setFlags f).pendingEI = s.pendingEI := rfl
@[simp] theorem State.setFlags_halted (s : State) (f : Byte) : (s.setFlags f).halted = s.halted := rfl
@[simp] theorem State.setFlags_activeNMI (s : State) (f : Byte) : (s.setFlags f).activeNMI = s.activeNMI := rfl
@[simp] theorem State.setFlags_activeINT (s : State) (f : Byte) : (s.setFlags f).activeINT = s.activeINT := rfl
@[simp] theorem State.setFlags_memptr (s : State) (f : Byte) : (s.setFlags f).memptr = s.memptr := rfl
@[simp] theorem State.setFlags_flagQ (s : State) (f : Byte) : (s.setFlags f).flagQ = true := rfl
@[simp] theorem State.setFlags_lastFlagQ (s : State) (f : Byte) : (s.setFlags f).lastFlagQ = s.lastFlagQ := rfl
@[simp] theorem State.setFlags_lastPC (s : State) (f : Byte) : (s.setFlags f).lastPC = s.lastPC := rfl
@[simp] theorem State.setFlags_bp (s : State) (f : Byte) : (s.setFlags f).bp = s.bp := rfl
@[simp] theorem State.setFlags_mem (s : State) (f : Byte) : (s.setFlags f).mem = s.mem := rfl
@[simp] theorem State.setFlags_portIn (s : State) (f : Byte) : (s.setFlags f).portIn = s.portIn := rfl
@[simp] theorem State.setFlags_portReads (s : State) (f : Byte) : (s.setFlags f).portReads = s.portReads := rfl
@[simp] theorem State.setFlags_events (s : State) (f : Byte) : (s.setFlags f).events = s.events := rfl

/-! ## enter -/

@[simp] theorem State.enter_a (s : State) (target : Word) : (s.enter target).a = s.a := rfl
@[simp] theorem State.enter_f (s : State) (target : Word) : (s.enter target).f = s.f := rfl
@[simp] theorem State.enter_b (s : State) (target : Word) : (s.enter target).b = s.b := rfl
@[simp] theorem State.enter_c (s : State) (target : Word) : (s.enter target).c = s.c := rfl
@[simp] theorem State.enter_d (s : State) (target : Word) : (s.enter target).d = s.d := rfl
@[simp] theorem State.enter_e (s : State) (target : Word) : (s.enter target).e = s.e := rfl
@[simp] theorem State.enter_h (s : State) (target : Word) : (s.enter target).h = s.h := rfl
@[simp] theorem State.enter_l (s : State) (target : Word) : (s.enter target).l = s.l := rfl
@[simp] theorem State.enter_a' (s : State) (target : Word) : (s.enter target).a' = s.a' := rfl
@[simp] theorem State.enter_f' (s : State) (target : Word) : (s.enter target).f' = s.f' := rfl
@[simp] theorem State.enter_b' (s : State) (target : Word) : (s.enter target).b' = s.b' := rfl
@[simp] theorem State.enter_c' (s : State) (target : Word) : (s.enter target).c' = s.c' := rfl
@[simp] theorem State.enter_d' (s : State) (target : Word) : (s.enter target).d' = s.d' := rfl
@[simp] theorem State.enter_e' (s : State) (target : Word) : (s.enter target).e' = s.e' := rfl
@[simp] theorem State.enter_h' (s : State) (target : Word) : (s.enter target).h' = s.h' := rfl
@[simp] theorem State.enter_l' (s : State) (target : Word) : (s.enter target).l' = s.l' := rfl
@[simp] theorem State.enter_pc (s : State) (target : Word) : (s.enter target).pc = target := rfl
@[simp] theorem State.enter_sp (s : State) (target : Word) : (s.enter target).sp = s.sp := rfl
@[simp] theorem State.enter_ix (s : State) (target : Word) : (s.enter target).ix = s.ix := rfl
@[simp] theorem State.enter_iy (s : State) (target : Word) : (s.enter target).iy = s.iy := rfl
@[simp] theorem State.enter_i (s : State) (target : Word) : (s.enter target).i = s.i := rfl
@[simp] theorem State.enter_r (s : State) (target : Word) : (s.enter target).r = s.r := rfl
@[simp] theorem State.enter_iff1 (s : State) (target : Word) : (s.enter target).iff1 = s.iff1 := rfl
@[simp] theorem State.enter_iff2 (s : State) (target : Word) : (s.enter target).iff2 = s.iff2 := rfl
@[simp] theorem State.enter_im (s : State) (target : Word) : (s.enter target).im = s.im := rfl
@[simp] theorem State.enter_pendingEI (s : State) (target : Word) : (s.enter target).pendingEI = s.pendingEI := rfl
@[simp] theorem State.enter_halted (s : State) (target : Word) : (s.enter target).halted = s.halted := rfl
@[simp] theorem State.enter_activeNMI (s : State) (target : Word) : (s.enter target).activeNMI = s.activeNMI := rfl
@[simp] theorem State.enter_activeINT (s : State) (target : Word) : (s.enter target).activeINT = s.activeINT := rfl
@[simp] theorem State.enter_memptr (s : State) (target : Word) : (s.enter target).memptr = target := rfl
@[simp] theorem State.enter_flagQ (s : State) (target : Word) : (s.enter target).flagQ = s.flagQ := rfl
@[simp] theorem State.enter_lastFlagQ (s : State) (target : Word) : (s.enter target).lastFlagQ = s.lastFlagQ := rfl
@[simp] theorem State.enter_lastPC (s : State) (target : Word) : (s.enter target).lastPC = s.lastPC := rfl
@[simp] theorem State.enter_bp (s : State) (target : Word) : (s.enter target).bp = s.bp := rfl
@[simp] theorem State.enter_mem (s : State) (target : Word) : (s.enter target).mem = s.mem := rfl
@[simp] theorem State.enter_portIn (s : State) (target : Word) : (s.enter target).portIn = s.portIn := rfl
@[simp] theorem State.enter_portReads (s : State) (target : Word) : (s.enter target).portReads = s.portReads := rfl
@[simp] theorem State.enter_events (s : State) (target : Word) : (s.enter target).events = s.events := rfl

/-! ## indexed -/

@[simp] theorem State.indexed_a (s : State) (x : IndexReg) (d : Byte) : (s.indexed x d).a = s.a := rfl
@[simp] theorem State.indexed_f (s : State) (x : IndexReg) (d : Byte) : (s.indexed x d).f = s.f := rfl
@[simp] theorem State.indexed_b (s : State) (x : IndexReg) (d : Byte) : (s.indexed x d).b = s.b := rfl
@[simp] theorem State.indexed_c (s : State) (x : IndexReg) (d : Byte) : (s.indexed x d).c = s.c := rfl
@[simp] theorem State.indexed_d (s : State) (x : IndexReg) (d : Byte) : (s.indexed x d).d = s.d := rfl
@[simp] theorem State.indexed_e (s : State) (x : IndexReg) (d : Byte) : (s.indexed x d).e = s.e := rfl
@[simp] theorem State.indexed_h (s : State) (x : IndexReg) (d : Byte) : (s.indexed x d).h = s.h := rfl
@[simp] theorem State.indexed_l (s : State) (x : IndexReg) (d : Byte) : (s.indexed x d).l = s.l := rfl
@[simp] theorem State.indexed_a' (s : State) (x : IndexReg) (d : Byte) : (s.indexed x d).a' = s.a' := rfl
@[simp] theorem State.indexed_f' (s : State) (x : IndexReg) (d : Byte) : (s.indexed x d).f' = s.f' := rfl
@[simp] theorem State.indexed_b' (s : State) (x : IndexReg) (d : Byte) : (s.indexed x d).b' = s.b' := rfl
@[simp] theorem State.indexed_c' (s : State) (x : IndexReg) (d : Byte) : (s.indexed x d).c' = s.c' := rfl
@[simp] theorem State.indexed_d' (s : State) (x : IndexReg) (d : Byte) : (s.indexed x d).d' = s.d' := rfl
@[simp] theorem State.indexed_e' (s : State) (x : IndexReg) (d : Byte) : (s.indexed x d).e' = s.e' := rfl
@[simp] theorem State.indexed_h' (s : State) (x : IndexReg) (d : Byte) : (s.indexed x d).h' = s.h' := rfl
@[simp] theorem State.indexed_l' (s : State) (x : IndexReg) (d : Byte) : (s.indexed x d).l' = s.l' := rfl
@[simp] theorem State.indexed_pc (s : State) (x : IndexReg) (d : Byte) : (s.indexed x d).pc = s.pc := rfl
@[simp] theorem State.indexed_sp (s : State) (x : IndexReg) (d : Byte) : (s.indexed x d).sp = s.sp := rfl
@[simp] theorem State.indexed_ix (s : State) (x : IndexReg) (d : Byte) : (s.indexed x d).ix = s.ix := rfl
@[simp] theorem State.indexed_iy (s : State) (x : IndexReg) (d : Byte) : (s.indexed x d).iy = s.iy := rfl
@[simp] theorem State.indexed_i (s : State) (x : IndexReg) (d : Byte) : (s.indexed x d).i = s.i := rfl
@[simp] theorem State.indexed_r (s : State) (x : IndexReg) (d : Byte) : (s.indexed x d).r = s.r := rfl
@[simp] theorem State.indexed_iff1 (s : State) (x : IndexReg) (d : Byte) : (s.indexed x d).iff1 = s.iff1 := rfl
@[simp] theorem State.indexed_iff2 (s : State) (x : IndexReg) (d : Byte) : (s.indexed x d).iff2 = s.iff2 := rfl
@[simp] theorem State.indexed_im (s : State) (x : IndexReg) (d : Byte) : (s.indexed x d).im = s.im := rfl
@[simp] theorem State.indexed_pendingEI (s : State) (x : IndexReg) (d : Byte) : (s.indexed x d).pendingEI = s.pendingEI := rfl
@[simp] theorem State.indexed_halted (s : State) (x : IndexReg) (d : Byte) : (s.indexed x d).halted = s.halted := rfl
@[simp] theorem State.indexed_activeNMI (s : State) (x : IndexReg) (d : Byte) : (s.indexed x d).activeNMI = s.activeNMI := rfl
@[simp] theorem State.indexed_activeINT (s : State) (x : IndexReg) (d : Byte) : (s.indexed x d).activeINT = s.activeINT := rfl
@[simp] theorem State.indexed_memptr (s : State) (x : IndexReg) (d : Byte) : (s.indexed x d).memptr = s.ea x d := rfl
@[simp] theorem State.indexed_flagQ (s : State) (x : IndexReg) (d : Byte) : (s.indexed x d).flagQ = s.flagQ := rfl
@[simp] theorem State.indexed_lastFlagQ (s : State) (x : IndexReg) (d : Byte) : (s.indexed x d).lastFlagQ = s.lastFlagQ := rfl
@[simp] theorem State.indexed_lastPC (s : State) (x : IndexReg) (d : Byte) : (s.indexed x d).lastPC = s.lastPC := rfl
@[simp] theorem State.indexed_bp (s : State) (x : IndexReg) (d : Byte) : (s.indexed x d).bp = s.bp := rfl
@[simp] theorem State.indexed_mem (s : State) (x : IndexReg) (d : Byte) : (s.indexed x d).mem = s.mem := rfl
@[simp] theorem State.indexed_portIn (s : State) (x : IndexReg) (d : Byte) : (s.indexed x d).portIn = s.portIn := rfl
@[simp] theorem State.indexed_portReads (s : State) (x : IndexReg) (d : Byte) : (s.indexed x d).portReads = s.portReads := rfl
@[simp] theorem State.indexed_events (s : State) (x : IndexReg) (d : Byte) : (s.indexed x d).events = s.events := rfl

/-! ## setBc -/

@[simp] theorem State.setBc_a (s : State) (w : Word) : (s.setBc w).a = s.a := rfl
@[simp] theorem State.setBc_f (s : State) (w : Word) : (s.setBc w).f = s.f := rfl
@[simp] theorem State.setBc_b (s : State) (w : Word) : (s.setBc w).b = hi8 w := rfl
@[simp] theorem State.setBc_c (s : State) (w : Word) : (s.setBc w).c = lo8 w := rfl
@[simp] theorem State.setBc_d (s : State) (w : Word) : (s.setBc w).d = s.d := rfl
@[simp] theorem State.setBc_e (s : State) (w : Word) : (s.setBc w).e = s.e := rfl
@[simp] theorem State.setBc_h (s : State) (w : Word) : (s.setBc w).h = s.h := rfl
@[simp] theorem State.setBc_l (s : State) (w : Word) : (s.setBc w).l = s.l := rfl
@[simp] theorem State.setBc_a' (s : State) (w : Word) : (s.setBc w).a' = s.a' := rfl
@[simp] theorem State.setBc_f' (s : State) (w : Word) : (s.setBc w).f' = s.f' := rfl
@[simp] theorem State.setBc_b' (s : State) (w : Word) : (s.setBc w).b' = s.b' := rfl
@[simp] theorem State.setBc_c' (s : State) (w : Word) : (s.setBc w).c' = s.c' := rfl
@[simp] theorem State.setBc_d' (s : State) (w : Word) : (s.setBc w).d' = s.d' := rfl
@[simp] theorem State.setBc_e' (s : State) (w : Word) : (s.setBc w).e' = s.e' := rfl
@[simp] theorem State.setBc_h' (s : State) (w : Word) : (s.setBc w).h' = s.h' := rfl
@[simp] theorem State.setBc_l' (s : State) (w : Word) : (s.setBc w).l' = s.l' := rfl
@[simp] theorem State.setBc_pc (s : State) (w : Word) : (s.setBc w).pc = s.pc := rfl
@[simp] theorem State.setBc_sp (s : State) (w : Word) : (s.setBc w).sp = s.sp := rfl
@[simp] theorem State.setBc_ix (s : State) (w : Word) : (s.setBc w).ix = s.ix := rfl
@[simp] theorem State.setBc_iy (s : State) (w : Word) : (s.setBc w).iy = s.iy := rfl
@[simp] theorem State.setBc_i (s : State) (w : Word) : (s.setBc w).i = s.i := rfl
@[simp] theorem State.setBc_r (s : State) (w : Word) : (s.setBc w).r = s.r := rfl
@[simp] theorem State.setBc_iff1 (s : State) (w : Word) : (s.setBc w).iff1 = s.iff1 := rfl
@[simp] theorem State.setBc_iff2 (s : State) (w : Word) : (s.setBc w).iff2 = s.iff2 := rfl
@[simp] theorem State.setBc_im (s : State) (w : Word) : (s.setBc w).im = s.im := rfl
@[simp] theorem State.setBc_pendingEI (s : State) (w : Word) : (s.setBc w).pendingEI = s.pendingEI := rfl
@[simp] theorem State.setBc_halted (s : State) (w : Word) : (s.setBc w).halted = s.halted := rfl
@[simp] theorem State.setBc_activeNMI (s : State) (w : Word) : (s.setBc w).activeNMI = s.activeNMI := rfl
@[simp] theorem State.setBc_activeINT (s : State) (w : Word) : (s.setBc w).activeINT = s.activeINT := rfl
@[simp] theorem State.setBc_memptr (s : State) (w : Word) : (s.setBc w).memptr = s.memptr := rfl
@[simp] theorem State.setBc_flagQ (s : State) (w : Word) : (s.setBc w).flagQ = s.flagQ := rfl
@[simp] theorem State.setBc_lastFlagQ (s : State) (w : Word) : (s.setBc w).lastFlagQ = s.lastFlagQ := rfl
@[simp] theorem State.setBc_lastPC (s : State) (w : Word) : (s.setBc w).lastPC = s.lastPC := rfl
@[simp] theorem State.setBc_bp (s : State) (w : Word) : (s.setBc w).bp = s.bp := rfl
@[simp] theorem State.setBc_mem (s : State) (w : Word) : (s.setBc w).mem = s.mem := rfl
@[simp] theorem State.setBc_portIn (s : State) (w : Word) : (s.setBc w).portIn = s.portIn := rfl
@[simp] theorem State.setBc_portReads (s : State) (w : Word) : (s.setBc w).portReads = s.portReads := rfl
@[simp] theorem State.setBc_events (s : State) (w : Word) : (s.setBc w).events = s.events := rfl

/-! ## setDe -/

@[simp] theorem State.setDe_a (s : State) (w : Word) : (s.setDe w).a = s.a := rfl
@[simp] theorem State.setDe_f (s : State) (w : Word) : (s.setDe w).f = s.f := rfl
@[simp] theorem State.setDe_b (s : State) (w : Word) : (s.setDe w).b = s.b := rfl
@[simp] theorem State.setDe_c (s : State) (w : Word) : (s.setDe w).c = s.c := rfl
@[simp] theorem State.setDe_d (s : State) (w : Word) : (s.setDe w).d = hi8 w := rfl
@[simp] theorem State.setDe_e (s : State) (w : Word) : (s.setDe w).e = lo8 w := rfl
@[simp] theorem State.setDe_h (s : State) (w : Word) : (s.setDe w).h = s.h := rfl
@[simp] theorem State.setDe_l (s : State) (w : Word) : (s.setDe w).l = s.l := rfl
@[simp] theorem State.setDe_a' (s : State) (w : Word) : (s.setDe w).a' = s.a' := rfl
@[simp] theorem State.setDe_f' (s : State) (w : Word) : (s.setDe w).f' = s.f' := rfl
@[simp] theorem State.setDe_b' (s : State) (w : Word) : (s.setDe w).b' = s.b' := rfl
@[simp] theorem State.setDe_c' (s : State) (w : Word) : (s.setDe w).c' = s.c' := rfl
@[simp] theorem State.setDe_d' (s : State) (w : Word) : (s.setDe w).d' = s.d' := rfl
@[simp] theorem State.setDe_e' (s : State) (w : Word) : (s.setDe w).e' = s.e' := rfl
@[simp] theorem State.setDe_h' (s : State) (w : Word) : (s.setDe w).h' = s.h' := rfl
@[simp] theorem State.setDe_l' (s : State) (w : Word) : (s.setDe w).l' = s.l' := rfl
@[simp] theorem State.setDe_pc (s : State) (w : Word) : (s.setDe w).pc = s.pc := rfl
@[simp] theorem State.setDe_sp (s : State) (w : Word) : (s.setDe w).sp = s.sp := rfl
@[simp] theorem State.setDe_ix (s : State) (w : Word) : (s.setDe w).ix = s.ix := rfl
@[simp] theorem State.setDe_iy (s : State) (w : Word) : (s.setDe w).iy = s.iy := rfl
@[simp] theorem State.setDe_i (s : State) (w : Word) : (s.setDe w).i = s.i := rfl
@[simp] theorem State.setDe_r (s : State) (w : Word) : (s.setDe w).r = s.r := rfl
@[simp] theorem State.setDe_iff1 (s : State) (w : Word) : (s.setDe w).iff1 = s.iff1 := rfl
@[simp] theorem State.setDe_iff2 (s : State) (w : Word) : (s.setDe w).iff2 = s.iff2 := rfl
@[simp] theorem State.setDe_im (s : State) (w : Word) : (s.setDe w).im = s.im := rfl
@[simp] theorem State.setDe_pendingEI (s : State) (w : Word) : (s.setDe w).pendingEI = s.pendingEI := rfl
@[simp] theorem State.setDe_halted (s : State) (w : Word) : (s.setDe w).halted = s.halted := rfl
@[simp] theorem State.setDe_activeNMI (s : State) (w : Word) : (s.setDe w).activeNMI = s.activeNMI := rfl
@[simp] theorem State.setDe_activeINT (s : State) (w : Word) : (s.setDe w).activeINT = s.activeINT := rfl
@[simp] theorem State.setDe_memptr (s : State) (w : Word) : (s.setDe w).memptr = s.memptr := rfl
@[simp] theorem State.setDe_flagQ (s : State) (w : Word) : (s.setDe w).flagQ = s.flagQ := rfl
@[simp] theorem State.setDe_lastFlagQ (s : State) (w : Word) : (s.setDe w).lastFlagQ = s.lastFlagQ := rfl
@[simp] theorem State.setDe_lastPC (s : State) (w : Word) : (s.setDe w).lastPC = s.lastPC := rfl
@[simp] theorem State.setDe_bp (s : State) (w : Word) : (s.setDe w).bp = s.bp := rfl
@[simp] theorem State.setDe_mem (s : State) (w : Word) : (s.setDe w).mem = s.mem := rfl
@[simp] theorem State.setDe_portIn (s : State) (w : Word) : (s.setDe w).portIn = s.portIn := rfl
@[simp] theorem State.setDe_portReads (s : State) (w : Word) : (s.setDe w).portReads = s.portReads := rfl
@[simp] theorem State.setDe_events (s : State) (w : Word) : (s.setDe w).events = s.events := rfl

/-! ## setHl -/

@[simp] theorem State.setHl_a (s : State) (w : Word) : (s.setHl w).a = s.a := rfl
@[simp] theorem State.setHl_f (s : State) (w : Word) : (s.setHl w).f = s.f := rfl
@[simp] theorem State.setHl_b (s : State) (w : Word) : (s.setHl w).b = s.b := rfl
@[simp] theorem State.setHl_c (s : State) (w : Word) : (s.setHl w).c = s.c := rfl
@[simp] theorem State.setHl_d (s : State) (w : Word) : (s.setHl w).d = s.d := rfl
@[simp] theorem State.setHl_e (s : State) (w : Word) : (s.setHl w).e = s.e := rfl
@[simp] theorem State.setHl_h (s : State) (w : Word) : (s.setHl w).h = hi8 w := rfl
@[simp] theorem State.setHl_l (s : State) (w : Word) : (s.setHl w).l = lo8 w := rfl
@[simp] theorem State.setHl_a' (s : State) (w : Word) : (s.setHl w).a' = s.a' := rfl
@[simp] theorem State.setHl_f' (s : State) (w : Word) : (s.setHl w).f' = s.f' := rfl
@[simp] theorem State.setHl_b' (s : State) (w : Word) : (s.setHl w).b' = s.b' := rfl
@[simp] theorem State.setHl_c' (s : State) (w : Word) : (s.setHl w).c' = s.c' := rfl
@[simp] theorem State.setHl_d' (s : State) (w : Word) : (s.setHl w).d' = s.d' := rfl
@[simp] theorem State.setHl_e' (s : State) (w : Word) : (s.setHl w).e' = s.e' := rfl
@[simp] theorem State.setHl_h' (s : State) (w : Word) : (s.setHl w).h' = s.h' := rfl
@[simp] theorem State.setHl_l' (s : State) (w : Word) : (s.setHl w).l' = s.l' := rfl
@[simp] theorem State.setHl_pc (s : State) (w : Word) : (s.setHl w).pc = s.pc := rfl
@[simp] theorem State.setHl_sp (s : State) (w : Word) : (s.setHl w).sp = s.sp := rfl
@[simp] theorem State.setHl_ix (s : State) (w : Word) : (s.setHl w).ix = s.ix := rfl
@[simp] theorem State.setHl_iy (s : State) (w : Word) : (s.setHl w).iy = s.iy := rfl
@[simp] theorem State.setHl_i (s : State) (w : Word) : (s.setHl w).i = s.i := rfl
@[simp] theorem State.setHl_r (s : State) (w : Word) : (s.setHl w).r = s.r := rfl
@[simp] theorem State.setHl_iff1 (s : State) (w : Word) : (s.setHl w).iff1 = s.iff1 := rfl
@[simp] theorem State.setHl_iff2 (s : State) (w : Word) : (s.setHl w).iff2 = s.iff2 := rfl
@[simp] theorem State.setHl_im (s : State) (w : Word) : (s.setHl w).im = s.im := rfl
@[simp] theorem State.setHl_pendingEI (s : State) (w : Word) : (s.setHl w).pendingEI = s.pendingEI := rfl
@[simp] theorem State.setHl_halted (s : State) (w : Word) : (s.setHl w).halted = s.halted := rfl
@[simp] theorem State.setHl_activeNMI (s : State) (w : Word) : (s.setHl w).activeNMI = s.activeNMI := rfl
@[simp] theorem State.setHl_activeINT (s : State) (w : Word) : (s.setHl w).activeINT = s.activeINT := rfl
@[simp] theorem State.setHl_memptr (s : State) (w : Word) : (s.setHl w).memptr = s.memptr := rfl
@[simp] theorem State.setHl_flagQ (s : State) (w : Word) : (s.setHl w).flagQ = s.flagQ := rfl
@[simp] theorem State.setHl_lastFlagQ (s : State) (w : Word) : (s.setHl w).lastFlagQ = s.lastFlagQ := rfl
@[simp] theorem State.setHl_lastPC (s : State) (w : Word) : (s.setHl w).lastPC = s.lastPC := rfl
@[simp] theorem State.setHl_bp (s : State) (w : Word) : (s.setHl w).bp = s.bp := rfl
@[simp] theorem State.setHl_mem (s : State) (w : Word) : (s.setHl w).mem = s.mem := rfl
@[simp] theorem State.setHl_portIn (s : State) (w : Word) : (s.setHl w).portIn = s.portIn := rfl
@[simp] theorem State.setHl_portReads (s : State) (w : Word) : (s.setHl w).portReads = s.portReads := rfl
@[simp] theorem State.setHl_events (s : State) (w : Word) : (s.setHl w).events = s.events := rfl

/-! ## setAf -/

@[simp] theorem State.setAf_a (s : State) (w : Word) : (s.setAf w).a = hi8 w := rfl
@[simp] theorem State.setAf_f (s : State) (w : Word) : (s.setAf w).f = lo8 w := rfl
@[simp] theorem State.setAf_b (s : State) (w : Word) : (s.setAf w).b = s.b := rfl
@[simp] theorem State.setAf_c (s : State) (w : Word) : (s.setAf w).c = s.c := rfl
@[simp] theorem State.setAf_d (s : State) (w : Word) : (s.setAf w).d = s.d := rfl
@[simp] theorem State.setAf_e (s : State) (w : Word) : (s.setAf w).e = s.e := rfl
@[simp] theorem State.setAf_h (s : State) (w : Word) : (s.setAf w).h = s.h := rfl
@[simp] theorem State.setAf_l (s : State) (w : Word) : (s.setAf w).l = s.l := rfl
@[simp] theorem State.setAf_a' (s : State) (w : Word) : (s.setAf w).a' = s.a' := rfl
@[simp] theorem State.setAf_f' (s : State) (w : Word) : (s.setAf w).f' = s.f' := rfl
@[simp] theorem State.setAf_b' (s : State) (w : Word) : (s.setAf w).b' = s.b' := rfl
@[simp] theorem State.setAf_c' (s : State) (w : Word) : (s.setAf w).c' = s.c' := rfl
@[simp] theorem State.setAf_d' (s : State) (w : Word) : (s.setAf w).d' = s.d' := rfl
@[simp] theorem State.setAf_e' (s : State) (w : Word) : (s.setAf w).e' = s.e' := rfl
@[simp] theorem State.setAf_h' (s : State) (w : Word) : (s.setAf w).h' = s.h' := rfl
@[simp] theorem State.setAf_l' (s : State) (w : Word) : (s.setAf w).l' = s.l' := rfl
@[simp] theorem State.setAf_pc (s : State) (w : Word) : (s.setAf w).pc = s.pc := rfl
@[simp] theorem State.setAf_sp (s : State) (w : Word) : (s.setAf w).sp = s.sp := rfl
@[simp] theorem State.setAf_ix (s : State) (w : Word) : (s.setAf w).ix = s.ix := rfl
@[simp] theorem State.setAf_iy (s : State) (w : Word) : (s.setAf w).iy = s.iy := rfl
@[simp] theorem State.setAf_i (s : State) (w : Word) : (s.setAf w).i = s.i := rfl
@[simp] theorem State.setAf_r (s : State) (w : Word) : (s.setAf w).r = s.r := rfl
@[simp] theorem State.setAf_iff1 (s : State) (w : Word) : (s.setAf w).iff1 = s.iff1 := rfl
@[simp] theorem State.setAf_iff2 (s : State) (w : Word) : (s.setAf w).iff2 = s.iff2 := rfl
@[simp] theorem State.setAf_im (s : State) (w : Word) : (s.setAf w).im = s.im := rfl
@[simp] theorem State.setAf_pendingEI (s : State) (w : Word) : (s.setAf w).pendingEI = s.pendingEI := rfl
@[simp] theorem State.setAf_halted (s : State) (w : Word) : (s.setAf w).halted = s.halted := rfl
@[simp] theorem State.setAf_activeNMI (s : State) (w : Word) : (s.setAf w).activeNMI = s.activeNMI := rfl
@[simp] theorem State.setAf_activeINT (s : State) (w : Word) : (s.setAf w).activeINT = s.activeINT := rfl
@[simp] theorem State.setAf_memptr (s : State) (w : Word) : (s.setAf w).memptr = s.memptr := rfl
@[simp] theorem State.setAf_flagQ (s : State) (w : Word) : (s.setAf w).flagQ = s.flagQ := rfl
@[simp] theorem State.setAf_lastFlagQ (s : State) (w : Word) : (s.setAf w).lastFlagQ = s.lastFlagQ := rfl
@[simp] theorem State.setAf_lastPC (s : State) (w : Word) : (s.setAf w).lastPC = s.lastPC := rfl
@[simp] theorem State.setAf_bp (s : State) (w : Word) : (s.setAf w).bp = s.bp := rfl
@[simp] theorem State.setAf_mem (s : State) (w : Word) : (s.setAf w).mem = s.mem := rfl
@[simp] theorem State.setAf_portIn (s : State) (w : Word) : (s.setAf w).portIn = s.portIn := rfl
@[simp] theorem State.setAf_portReads (s : State) (w : Word) : (s.setAf w).portReads = s.portReads := rfl
@[simp] theorem State.setAf_events (s : State) (w : Word) : (s.setAf w).events = s.events := rfl

/-! ## setR8 -/

@[simp] theorem State.setR8_f (s : State) (k : Reg8) (v : Byte) : (s.setR8 k v).f = s.f := by cases k <;> rfl
@[simp] theorem State.setR8_a' (s : State) (k : Reg8) (v : Byte) : (s.setR8 k v).a' = s.a' := by cases k <;> rfl
@[simp] theorem State.setR8_f' (s : State) (k : Reg8) (v : Byte) : (s.setR8 k v).f' = s.f' := by cases k <;> rfl
@[simp] theorem State.setR8_b' (s : State) (k : Reg8) (v : Byte) : (s.setR8 k v).b' = s.b' := by cases k <;> rfl
@[simp] theorem State.setR8_c' (s : State) (k : Reg8) (v : Byte) : (s.setR8 k v).c' = s.c' := by cases k <;> rfl
@[simp] theorem State.setR8_d' (s : State) (k : Reg8) (v : Byte) : (s.setR8 k v).d' = s.d' := by cases k <;> rfl
@[simp] theorem State.setR8_e' (s : State) (k : Reg8) (v : Byte) : (s.setR8 k v).e' = s.e' := by cases k <;> rfl
@[simp] theorem State.setR8_h' (s : State) (k : Reg8) (v : Byte) : (s.setR8 k v).h' = s.h' := by cases k <;> rfl
@[simp] theorem State.setR8_l' (s : State) (k : Reg8) (v : Byte) : (s.setR8 k v).l' = s.l' := by cases k <;> rfl
@[simp] theorem State.setR8_pc (s : State) (k : Reg8) (v : Byte) : (s.setR8 k v).pc = s.pc := by cases k <;> rfl
@[simp] theorem State.setR8_sp (s : State) (k : Reg8) (v : Byte) : (s.setR8 k v).sp = s.sp := by cases k <;> rfl
@[simp] theorem State.setR8_ix (s : State) (k : Reg8) (v : Byte) : (s.setR8 k v).ix = s.ix := by cases k <;> rfl
@[simp] theorem State.setR8_iy (s : State) (k : Reg8) (v : Byte) : (s.setR8 k v).iy = s.iy := by cases k <;> rfl
@[simp] theorem State.setR8_i (s : State) (k : Reg8) (v : Byte) : (s.setR8 k v).i = s.i := by cases k <;> rfl
@[simp] theorem State.setR8_r (s : State) (k : Reg8) (v : Byte) : (s.setR8 k v).r = s.r := by cases k <;> rfl
@[simp] theorem State.setR8_iff1 (s : State) (k : Reg8) (v : Byte) : (s.setR8 k v).iff1 = s.iff1 := by cases k <;> rfl
@[simp] theorem State.setR8_iff2 (s : State) (k : Reg8) (v : Byte) : (s.setR8 k v).iff2 = s.iff2 := by cases k <;> rfl
@[simp] theorem State.setR8_im (s : State) (k : Reg8) (v : Byte) : (s.setR8 k v).im = s.im := by cases k <;> rfl
@[simp] theorem State.setR8_pendingEI (s : State) (k : Reg8) (v : Byte) : (s.setR8 k v).pendingEI = s.pendingEI := by cases k <;> rfl
@[simp] theorem State.setR8_halted (s : State) (k : Reg8) (v : Byte) : (s.setR8 k v).halted = s.halted := by cases k <;> rfl
@[simp] theorem State.setR8_activeNMI (s : State) (k : Reg8) (v : Byte) : (s.setR8 k v).activeNMI = s.activeNMI := by cases k <;> rfl
@[simp] theorem State.setR8_activeINT (s : State) (k : Reg8) (v : Byte) : (s.setR8 k v).activeINT = s.activeINT := by cases k <;> rfl
@[simp] theorem State.setR8_memptr (s : State) (k : Reg8) (v : Byte) : (s.setR8 k v).memptr = s.memptr := by cases k <;> rfl
@[simp] theorem State.setR8_flagQ (s : State) (k : Reg8) (v : Byte) : (s.setR8 k v).flagQ = s.flagQ := by cases k <;> rfl
@[simp] theorem State.setR8_lastFlagQ (s : State) (k : Reg8) (v : Byte) : (s.setR8 k v).lastFlagQ = s.lastFlagQ := by cases k <;> rfl
@[simp] theorem State.setR8_lastPC (s : State) (k : Reg8) (v : Byte) : (s.setR8 k v).lastPC = s.lastPC := by cases k <;> rfl
@[simp] theorem State.setR8_bp (s : State) (k : Reg8) (v : Byte) : (s.setR8 k v).bp = s.bp := by cases k <;> rfl
@[simp] theorem State.setR8_mem (s : State) (k : Reg8) (v : Byte) : (s.setR8 k v).mem = s.mem := by cases k <;> rfl
@[simp] theorem State.setR8_portIn (s : State) (k : Reg8) (v : Byte) : (s.setR8 k v).portIn = s.portIn := by cases k <;> rfl
@[simp] theorem State.setR8_portReads (s : State) (k : Reg8) (v : Byte) : (s.setR8 k v).portReads = s.portReads := by cases k <;> rfl
@[simp] theorem State.setR8_events (s : State) (k : Reg8) (v : Byte) : (s.setR8 k v).events = s.events := by cases k <;> rfl

/-! ## setX -/

@[simp] theorem State.setX_a (s : State) (x : IndexReg) (w : Word) : (s.setX x w).a = s.a := by cases x <;> rfl
@[simp] theorem State.setX_f (s : State) (x : IndexReg) (w : Word) : (s.setX x w).f = s.f := by cases x <;> rfl
@[simp] theorem State.setX_b (s : State) (x : IndexReg) (w : Word) : (s.setX x w).b = s.b := by cases x <;> rfl
@[simp] theorem State.setX_c (s : State) (x : IndexReg) (w : Word) : (s.setX x w).c = s.c := by cases x <;> rfl
@[simp] theorem State.setX_d (s : State) (x : IndexReg) (w : Word) : (s.setX x w).d = s.d := by cases x <;> rfl
@[simp] theorem State.setX_e (s : State) (x : IndexReg) (w : Word) : (s.setX x w).e = s.e := by cases x <;> rfl
@[simp] theorem State.setX_h (s : State) (x : IndexReg) (w : Word) : (s.setX x w).h = s.h := by cases x <;> rfl
@[simp] theorem State.setX_l (s : State) (x : IndexReg) (w : Word) : (s.setX x w).l = s.l := by cases x <;> rfl
@[simp] theorem State.setX_a' (s : State) (x : IndexReg) (w : Word) : (s.setX x w).a' = s.a' := by cases x <;> rfl
@[simp] theorem State.setX_f' (s : State) (x : IndexReg) (w : Word) : (s.setX x w).f' = s.f' := by cases x <;> rfl
@[simp] theorem State.setX_b' (s : State) (x : IndexReg) (w : Word) : (s.setX x w).b' = s.b' := by cases x <;> rfl
@[simp] theorem State.setX_c' (s : State) (x : IndexReg) (w : Word) : (s.setX x w).c' = s.c' := by cases x <;> rfl
@[simp] theorem State.setX_d' (s : State) (x : IndexReg) (w : Word) : (s.setX x w).d' = s.d' := by cases x <;> rfl
@[simp] theorem State.setX_e' (s : State) (x : IndexReg) (w : Word) : (s.setX x w).e' = s.e' := by cases x <;> rfl
@[simp] theorem State.setX_h' (s : State) (x : IndexReg) (w : Word) : (s.setX x w).h' = s.h' := by cases x <;> rfl
@[simp] theorem State.setX_l' (s : State) (x : IndexReg) (w : Word) : (s.setX x w).l' = s.l' := by cases x <;> rfl
@[simp] theorem State.setX_pc (s : State) (x : IndexReg) (w : Word) : (s.setX x w).pc = s.pc := by cases x <;> rfl
@[simp] theorem State.setX_sp (s : State) (x : IndexReg) (w : Word) : (s.setX x w).sp = s.sp := by cases x <;> rfl
@[simp] theorem State.setX_i (s : State) (x : IndexReg) (w : Word) : (s.setX x w).i = s.i := by cases x <;> rfl
@[simp] theorem State.setX_r (s : State) (x : IndexReg) (w : Word) : (s.setX x w).r = s.r := by cases x <;> rfl
@[simp] theorem State.setX_iff1 (s : State) (x : IndexReg) (w : Word) : (s.setX x w).iff1 = s.iff1 := by cases x <;> rfl
@[simp] theorem State.setX_iff2 (s : State) (x : IndexReg) (w : Word) : (s.setX x w).iff2 = s.iff2 := by cases x <;> rfl
@[simp] theorem State.setX_im (s : State) (x : IndexReg) (w : Word) : (s.setX x w).im = s.im := by cases x <;> rfl
@[simp] theorem State.setX_pendingEI (s : State) (x : IndexReg) (w : Word) : (s.setX x w).pendingEI = s.pendingEI := by cases x <;> rfl
@[simp] theorem State.setX_halted (s : State) (x : IndexReg) (w : Word) : (s.setX x w).halted = s.halted := by cases x <;> rfl
@[simp] theorem State.setX_activeNMI (s : State) (x : IndexReg) (w : Word) : (s.setX x w).activeNMI = s.activeNMI := by cases x <;> rfl
@[simp] theorem State.setX_activeINT (s : State) (x : IndexReg) (w : Word) : (s.setX x w).activeINT = s.activeINT := by cases x <;> rfl
@[simp] theorem State.setX_memptr (s : State) (x : IndexReg) (w : Word) : (s.setX x w).memptr = s.memptr := by cases x <;> rfl
@[simp] theorem State.setX_flagQ (s : State) (x : IndexReg) (w : Word) : (s.setX x w).flagQ = s.flagQ := by cases x <;> rfl
@[simp] theorem State.setX_lastFlagQ (s : State) (x : IndexReg) (w : Word) : (s.setX x w).lastFlagQ = s.lastFlagQ := by cases x <;> rfl
@[simp] theorem State.setX_lastPC (s : State) (x : IndexReg) (w : Word) : (s.setX x w).lastPC = s.lastPC := by cases x <;> rfl
@[simp] theorem State.setX_bp (s : State) (x : IndexReg) (w : Word) : (s.setX x w).bp = s.bp := by cases x <;> rfl
@[simp] theorem State.setX_mem (s : State) (x : IndexReg) (w : Word) : (s.setX x w).mem = s.mem := by cases x <;> rfl
@[simp] theorem State.setX_portIn (s : State) (x : IndexReg) (w : Word) : (s.setX x w).portIn = s.portIn := by cases x <;> rfl
@[simp] theorem State.setX_portReads (s : State) (x : IndexReg) (w : Word) : (s.setX x w).portReads = s.portReads := by cases x <;> rfl
@[simp] theorem State.setX_events (s : State) (x : IndexReg) (w : Word) : (s.setX x w).events = s.events := by cases x <;> rfl

/-! ## setRp -/

@[simp] theorem State.setRp_a (s : State) (k : RegPair) (w : Word) : (s.setRp k w).a = s.a := by cases k <;> rfl
@[simp] theorem State.setRp_f (s : State) (k : RegPair) (w : Word) : (s.setRp k w).f = s.f := by cases k <;> rfl
@[simp] theorem State.setRp_a' (s : State) (k : RegPair) (w : Word) : (s.setRp k w).a' = s.a' := by cases k <;> rfl
@[simp] theorem State.setRp_f' (s : State) (k : RegPair) (w : Word) : (s.setRp k w).f' = s.f' := by cases k <;> rfl
@[simp] theorem State.setRp_b' (s : State) (k : RegPair) (w : Word) : (s.setRp k w).b' = s.b' := by cases k <;> rfl
@[simp] theorem State.setRp_c' (s : State) (k : RegPair) (w : Word) : (s.setRp k w).c' = s.c' := by cases k <;> rfl
@[simp] theorem State.setRp_d' (s : State) (k : RegPair) (w : Word) : (s.setRp k w).d' = s.d' := by cases k <;> rfl
@[simp] theorem State.setRp_e' (s : State) (k : RegPair) (w : Word) : (s.setRp k w).e' = s.e' := by cases k <;> rfl
@[simp] theorem State.setRp_h' (s : State) (k : RegPair) (w : Word) : (s.setRp k w).h' = s.h' := by cases k <;> rfl
@[simp] theorem State.setRp_l' (s : State) (k : RegPair) (w : Word) : (s.setRp k w).l' = s.l' := by cases k <;> rfl
@[simp] theorem State.setRp_pc (s : State) (k : RegPair) (w : Word) : (s.setRp k w).pc = s.pc := by cases k <;> rfl
@[simp] theorem State.setRp_ix (s : State) (k : RegPair) (w : Word) : (s.setRp k w).ix = s.ix := by cases k <;> rfl
@[simp] theorem State.setRp_iy (s : State) (k : RegPair) (w : Word) : (s.setRp k w).iy = s.iy := by cases k <;> rfl
@[simp] theorem State.setRp_i (s : State) (k : RegPair) (w : Word) : (s.setRp k w).i = s.i := by cases k <;> rfl
@[simp] theorem State.setRp_r (s : State) (k : RegPair) (w : Word) : (s.setRp k w).r = s.r := by cases k <;> rfl
@[simp] theorem State.setRp_iff1 (s : State) (k : RegPair) (w : Word) : (s.setRp k w).iff1 = s.iff1 := by cases k <;> rfl
@[simp] theorem State.setRp_iff2 (s : State) (k : RegPair) (w : Word) : (s.setRp k w).iff2 = s.iff2 := by cases k <;> rfl
@[simp] theorem State.setRp_im (s : State) (k : RegPair) (w : Word) : (s.setRp k w).im = s.im := by cases k <;> rfl
@[simp] theorem State.setRp_pendingEI (s : State) (k : RegPair) (w : Word) : (s.setRp k w).pendingEI = s.pendingEI := by cases k <;> rfl
@[simp] theorem State.setRp_halted (s : State) (k : RegPair) (w : Word) : (s.setRp k w).halted = s.halted := by cases k <;> rfl
@[simp] theorem State.setRp_activeNMI (s : State) (k : RegPair) (w : Word) : (s.setRp k w).activeNMI = s.activeNMI := by cases k <;> rfl
@[simp] theorem State.setRp_activeINT (s : State) (k : RegPair) (w : Word) : (s.setRp k w).activeINT = s.activeINT := by cases k <;> rfl
@[simp] theorem State.setRp_memptr (s : State) (k : RegPair) (w : Word) : (s.setRp k w).memptr = s.memptr := by cases k <;> rfl
@[simp] theorem State.setRp_flagQ (s : State) (k : RegPair) (w : Word) : (s.setRp k w).flagQ = s.flagQ := by cases k <;> rfl
@[simp] theorem State.setRp_lastFlagQ (s : State) (k : RegPair) (w : Word) : (s.setRp k w).lastFlagQ = s.lastFlagQ := by cases k <;> rfl
@[simp] theorem State.setRp_lastPC (s : State) (k : RegPair) (w : Word) : (s.setRp k w).lastPC = s.lastPC := by cases k <;> rfl
@[simp] theorem State.setRp_bp (s : State) (k : RegPair) (w : Word) : (s.setRp k w).bp = s.bp := by cases k <;> rfl
@[simp] theorem State.setRp_mem (s : State) (k : RegPair) (w : Word) : (s.setRp k w).mem = s.mem := by cases k <;> rfl
@[simp] theorem State.setRp_portIn (s : State) (k : RegPair) (w : Word) : (s.setRp k w).portIn = s.portIn := by cases k <;> rfl
@[simp] theorem State.setRp_portReads (s : State) (k : RegPair) (w : Word) : (s.setRp k w).portReads = s.portReads := by cases k <;> rfl
@[simp] theorem State.setRp_events (s : State) (k : RegPair) (w : Word) : (s.setRp k w).events = s.events := by cases k <;> rfl

/-! ## setQq -/

@[simp] theorem State.setQq_a' (s : State) (k : StackPair) (w : Word) : (s.setQq k w).a' = s.a' := by cases k <;> rfl
@[simp] theorem State.setQq_f' (s : State) (k : StackPair) (w : Word) : (s.setQq k w).f' = s.f' := by cases k <;> rfl
@[simp] theorem State.setQq_b' (s : State) (k : StackPair) (w : Word) : (s.setQq k w).b' = s.b' := by cases k <;> rfl
@[simp] theorem State.setQq_c' (s : State) (k : StackPair) (w : Word) : (s.setQq k w).c' = s.c' := by cases k <;> rfl
@[simp] theorem State.setQq_d' (s : State) (k : StackPair) (w : Word) : (s.setQq k w).d' = s.d' := by cases k <;> rfl
@[simp] theorem State.setQq_e' (s : State) (k : StackPair) (w : Word) : (s.setQq k w).e' = s.e' := by cases k <;> rfl
@[simp] theorem State.setQq_h' (s : State) (k : StackPair) (w : Word) : (s.setQq k w).h' = s.h' := by cases k <;> rfl
@[simp] theorem State.setQq_l' (s : State) (k : StackPair) (w : Word) : (s.setQq k w).l' = s.l' := by cases k <;> rfl
@[simp] theorem State.setQq_pc (s : State) (k : StackPair) (w : Word) : (s.setQq k w).pc = s.pc := by cases k <;> rfl
@[simp] theorem State.setQq_sp (s : State) (k : StackPair) (w : Word) : (s.setQq k w).sp = s.sp := by cases k <;> rfl
@[simp] theorem State.setQq_ix (s : State) (k : StackPair) (w : Word) : (s.setQq k w).ix = s.ix := by cases k <;> rfl
@[simp] theorem State.setQq_iy (s : State) (k : StackPair) (w : Word) : (s.setQq k w).iy = s.iy := by cases k <;> rfl
@[simp] theorem State.setQq_i (s : State) (k : StackPair) (w : Word) : (s.setQq k w).i = s.i := by cases k <;> rfl
@[simp] theorem State.setQq_r (s : State) (k : StackPair) (w : Word) : (s.setQq k w).r = s.r := by cases k <;> rfl
@[simp] theorem State.setQq_iff1 (s : State) (k : StackPair) (w : Word) : (s.setQq k w).iff1 = s.iff1 := by cases k <;> rfl
@[simp] theorem State.setQq_iff2 (s : State) (k : StackPair) (w : Word) : (s.setQq k w).iff2 = s.iff2 := by cases k <;> rfl
@[simp] theorem State.setQq_im (s : State) (k : StackPair) (w : Word) : (s.setQq k w).im = s.im := by cases k <;> rfl
@[simp] theorem State.setQq_pendingEI (s : State) (k : StackPair) (w : Word) : (s.setQq k w).pendingEI = s.pendingEI := by cases k <;> rfl
@[simp] theorem State.setQq_halted (s : State) (k : StackPair) (w : Word) : (s.setQq k w).halted = s.halted := by cases k <;> rfl
@[simp] theorem State.setQq_activeNMI (s : State) (k : StackPair) (w : Word) : (s.setQq k w).activeNMI = s.activeNMI := by cases k <;> rfl
@[simp] theorem State.setQq_activeINT (s : State) (k : StackPair) (w : Word) : (s.setQq k w).activeINT = s.activeINT := by cases k <;> rfl
@[simp] theorem State.setQq_memptr (s : State) (k : StackPair) (w : Word) : (s.setQq k w).memptr = s.memptr := by cases k <;> rfl
@[simp] theorem State.setQq_flagQ (s : State) (k : StackPair) (w : Word) : (s.setQq k w).flagQ = s.flagQ := by cases k <;> rfl
@[simp] theorem State.setQq_lastFlagQ (s : State) (k : StackPair) (w : Word) : (s.setQq k w).lastFlagQ = s.lastFlagQ := by cases k <;> rfl
@[simp] theorem State.setQq_lastPC (s : State) (k : StackPair) (w : Word) : (s.setQq k w).lastPC = s.lastPC := by cases k <;> rfl
@[simp] theorem State.setQq_bp (s : State) (k : StackPair) (w : Word) : (s.setQq k w).bp = s.bp := by cases k <;> rfl
@[simp] theorem State.setQq_mem (s : State) (k : StackPair) (w : Word) : (s.setQq k w).mem = s.mem := by cases k <;> rfl
@[simp] theorem State.setQq_portIn (s : State) (k : StackPair) (w : Word) : (s.setQq k w).portIn = s.portIn := by cases k <;> rfl
@[simp] theorem State.setQq_portReads (s : State) (k : StackPair) (w : Word) : (s.setQq k w).portReads = s.portReads := by cases k <;> rfl
@[simp] theorem State.setQq_events (s : State) (k : StackPair) (w : Word) : (s.setQq k w).events = s.events := by cases k <;> rfl

end Sys2Proof.Machine
end

