-- ==== Sys2Proof/Laws/Ops.lean ====
section
/-!
SUPPORT. One lemma for each shared operation that says everything it can do: reading and writing memory by byte, registers
and pairs read back, the stack, the read-modify-write forms, taking an interrupt and returning from one.
-/

namespace Sys2Proof.Machine

/-! ## Memory by byte -/

/-- What a byte of memory is after a write (R100). -/
theorem State.byteAt_memWrite (s : State) (p q : Word) (v : Byte) :
    (s.memWrite p v).byteAt q = if q = p then v else s.byteAt q := by
  simp only [State.byteAt, State.memWrite, Memory.read_write, BitVec.toNat_inj]

@[simp] theorem State.byteAt_memWrite_same (s : State) (p : Word) (v : Byte) : (s.memWrite p v).byteAt p = v := by
  simp [State.byteAt_memWrite]

theorem State.byteAt_memWrite_other (s : State) {p q : Word} (v : Byte) (h : q ≠ p) :
    (s.memWrite p v).byteAt q = s.byteAt q := by
  simp [State.byteAt_memWrite, h]

/-- Two states with the same memory read alike. -/
theorem State.byteAt_of_mem_eq {s t : State} (h : t.mem = s.mem) (p : Word) : t.byteAt p = s.byteAt p := by
  simp only [State.byteAt, h]

@[simp] theorem State.byteAt_emit (s : State) (ev : Event) (p : Word) : (s.emit ev).byteAt p = s.byteAt p := rfl
@[simp] theorem State.byteAt_setFlags (s : State) (f : Byte) (p : Word) : (s.setFlags f).byteAt p = s.byteAt p := rfl
@[simp] theorem State.byteAt_indexed (s : State) (x : IndexReg) (d : Byte) (p : Word) :
    (s.indexed x d).byteAt p = s.byteAt p := rfl
@[simp] theorem State.byteAt_setR8 (s : State) (k : Reg8) (v : Byte) (p : Word) :
    (s.setR8 k v).byteAt p = s.byteAt p := State.byteAt_of_mem_eq (State.setR8_mem s k v) p

/-- A step away is another address. -/
theorem Word.add_one_ne (p : Word) : p + 1 ≠ p := by bv_omega

theorem Word.sub_two_ne_sub_one (p : Word) : p - 2 ≠ p - 1 := by bv_omega

theorem Word.sub_one_sub_one (p : Word) : p - 1 - 1 = p - 2 := by bv_omega

/-- A byte of memory after a write, by 16-bit address. -/
theorem Memory.read_write_word (m : Memory) (p q : Word) (v : Byte) :
    Memory.read (Memory.write m p.toNat v) q.toNat = if q = p then v else Memory.read m q.toNat := by
  rw [Memory.read_write]
  simp only [BitVec.toNat_inj]

/-- The 16-bit read (R102). -/
theorem State.memRead16_eq (s : State) (p : Word) :
    s.memRead16 p = (s.wordAt p, { s with events := s.events ++ [.memRead p, .memRead (p + 1)] }) := by
  simp [State.memRead16, State.memRead, State.emit, State.wordAt, mk16_eq_ofNat, State.byteAt]

/-! ## Registers and pairs read back -/

theorem State.getR8_setR8 (s : State) (k j : Reg8) (v : Byte) :
    (s.setR8 k v).getR8 j = if j = k then v else s.getR8 j := by
  cases k <;> cases j <;> rfl

theorem State.getX_setX (s : State) (x y : IndexReg) (w : Word) :
    (s.setX x w).getX y = if y = x then w else s.getX y := by
  cases x <;> cases y <;> rfl

theorem State.getRp_setRp (s : State) (k j : RegPair) (w : Word) :
    (s.setRp k w).getRp j = if j = k then w else s.getRp j := by
  cases k <;> cases j <;>
    simp [State.setRp, State.getRp, State.setBc, State.setDe, State.setHl, State.bc, State.de, State.hl]

@[simp] theorem State.getX_setR8 (s : State) (k : Reg8) (v : Byte) (y : IndexReg) :
    (s.setR8 k v).getX y = s.getX y := by
  cases k <;> cases y <;> rfl

@[simp] theorem State.getR8_setX (s : State) (x : IndexReg) (w : Word) (k : Reg8) :
    (s.setX x w).getR8 k = s.getR8 k := by
  cases x <;> cases k <;> rfl

/-! ## The stack -/

/-- `Push` (R262). -/
theorem State.push_eq (s : State) (w : Word) :
    s.push w = { s with
      sp := s.sp - 2
      mem := (s.mem.write (s.sp - 1).toNat (hi8 w)).write (s.sp - 2).toNat (lo8 w)
      events := s.events ++ [.memWrite (s.sp - 1) (hi8 w), .memWrite (s.sp - 2) (lo8 w)] } := by
  simp only [State.push, State.memWrite, Word.sub_one_sub_one, List.append_assoc, List.cons_append, List.nil_append]

/-- `Push`, by byte (R262). -/
theorem State.push_pushed (s : State) (w : Word) : Pushed s (s.push w) w := by
  rw [State.push_eq]
  refine ⟨rfl, ?_, ?_, fun p hp => ?_⟩
  · simp only [State.byteAt, Memory.read_write_word, if_neg (Word.sub_two_ne_sub_one s.sp).symm, if_true]
  · simp only [State.byteAt, Memory.read_write_word, if_true]
  · simp only [List.mem_cons, List.not_mem_nil, or_false, not_or] at hp
    simp only [State.byteAt, Memory.read_write_word, if_neg hp.1, if_neg hp.2]

/-- `Pop` (R263). -/
theorem State.pop_eq (s : State) :
    s.pop = (s.wordAt s.sp,
      { s with sp := s.sp + 2, events := s.events ++ [.memRead s.sp, .memRead (s.sp + 1)] }) := by
  simp [State.pop, State.memRead16_eq]

/-- `PC <- Pop(); MEMPTR <- PC` (R509). -/
theorem State.popPc_eq (s : State) :
    s.popPc = { s with
      pc := s.wordAt s.sp, memptr := s.wordAt s.sp, sp := s.sp + 2
      events := s.events ++ [.memRead s.sp, .memRead (s.sp + 1)] } := by
  simp [State.popPc, State.pop_eq, State.enter]

/-- The return of RETN and RETI (R520, R521). -/
theorem State.returnFromInterrupt_eq (s : State) :
    s.returnFromInterrupt = { s with
      iff1 := s.iff2, pc := s.wordAt s.sp, memptr := s.wordAt s.sp, sp := s.sp + 2
      events := s.events ++ [.memRead s.sp, .memRead (s.sp + 1)] } := by
  simp [State.returnFromInterrupt, State.popPc_eq, State.wordAt, State.byteAt]

/-! ## Fetching and taking an interrupt -/

/-- R after one increment (R51). -/
theorem State.incR_r_eq (s : State) : s.incR.r = refreshAfter s.r 1 := by
  have h : ∀ r : Byte, (r &&& 0x80) ||| ((r + 1) &&& 0x7F) = refreshAfter r 1 := by decide
  exact h s.r

/-- `M1()` (R160 to R162). -/
theorem State.m1_eq (s : State) :
    s.m1 = { s with pc := s.pc + 1, r := refreshAfter s.r 1, events := s.events ++ [.fetch s.pc] } := by
  simp [State.m1, State.emit, ← State.incR_r_eq, State.incR]

/-- `imm8()` without its answer (R17). -/
theorem State.fetchOperand_eq (s : State) :
    s.fetchOperand = { s with pc := s.pc + 1, events := s.events ++ [.memRead s.pc] } := rfl

/-- What NMI and INT acceptance share (R611, R620). -/
theorem State.interruptEntry_eq (s : State) :
    s.interruptEntry =
      (let ret : Word := if s.halted then s.pc + 1 else s.pc
       { s with
        lastFlagQ := false, r := refreshAfter s.r 1, halted := false, pc := ret, iff1 := false, sp := s.sp - 2
        mem := (s.mem.write (s.sp - 1).toNat (hi8 ret)).write (s.sp - 2).toNat (lo8 ret)
        events := s.events ++ [.memWrite (s.sp - 1) (hi8 ret), .memWrite (s.sp - 2) (lo8 ret)] }) := by
  cases h : s.halted <;>
    simp [State.interruptEntry, State.leaveHalt, State.push_eq, ← State.incR_r_eq, State.incR, h]

/-- NMI acceptance (R611). -/
theorem State.acceptNMI_eq (s : State) :
    s.acceptNMI =
      (let ret : Word := if s.halted then s.pc + 1 else s.pc
       { s with
        activeNMI := false, lastFlagQ := false, r := refreshAfter s.r 1, halted := false, pc := 0x0066
        memptr := 0x0066, iff1 := false, sp := s.sp - 2
        mem := (s.mem.write (s.sp - 1).toNat (hi8 ret)).write (s.sp - 2).toNat (lo8 ret)
        events := s.events ++
          [.fetch s.pc, .memWrite (s.sp - 1) (hi8 ret), .memWrite (s.sp - 2) (lo8 ret)] }) := by
  simp [State.acceptNMI, State.interruptEntry_eq, State.enter, State.emit]

/-- INT acceptance (R620 to R622); the IM2 vector is read from the memory after the push. -/
theorem State.acceptINT_eq (s : State) :
    s.acceptINT =
      (let ret : Word := if s.halted then s.pc + 1 else s.pc
       let mem := (s.mem.write (s.sp - 1).toNat (hi8 ret)).write (s.sp - 2).toNat (lo8 ret)
       let vector : Word := mk16 s.i 0xFF
       let target : Word := if s.im = .im2 then ({ s with mem := mem } : State).wordAt vector else 0x0038
       { s with
        lastFlagQ := false, r := refreshAfter s.r 1, halted := false, pc := target, memptr := target
        iff1 := false, iff2 := false, sp := s.sp - 2, mem := mem
        events := s.events ++ [.memWrite (s.sp - 1) (hi8 ret), .memWrite (s.sp - 2) (lo8 ret)] ++
          (if s.im = .im2 then [.memRead vector, .memRead (vector + 1)] else []) }) := by
  cases h : s.im <;>
    simp [State.acceptINT, State.interruptEntry_eq, State.memRead16_eq, State.enter, State.wordAt, State.byteAt, h]

end Sys2Proof.Machine
end

