-- ==== Sys2Proof/Laws/Canonical.lean ====
section
/-!
SUPPORT. Every operation on memory and on the breakpoint matrix keeps its canonical form (`Memory.wf`, `bpWf`), and the
memory of the reset state has it.
-/

namespace Sys2Proof.Machine

theorem State.memWrite_wf {s : State} (p : Word) (v : Byte) (h : s.mem.wf = true) : (s.memWrite p v).mem.wf = true :=
  Memory.write_wf p.isLt h

theorem State.memWrite16_wf {s : State} (p w : Word) (h : s.mem.wf = true) : (s.memWrite16 p w).mem.wf = true :=
  State.memWrite_wf _ _ (State.memWrite_wf _ _ h)

theorem State.push_wf {s : State} (w : Word) (h : s.mem.wf = true) : (s.push w).mem.wf = true := by
  rw [State.push_eq]
  exact Memory.write_wf (BitVec.isLt _) (Memory.write_wf (BitVec.isLt _) h)

theorem State.interruptEntry_wf {s : State} (h : s.mem.wf = true) : s.interruptEntry.mem.wf = true := by
  rw [State.interruptEntry_eq]
  exact Memory.write_wf (BitVec.isLt _) (Memory.write_wf (BitVec.isLt _) h)

theorem State.acceptNMI_wf {s : State} (h : s.mem.wf = true) : s.acceptNMI.mem.wf = true := by
  rw [State.acceptNMI_eq]
  exact Memory.write_wf (BitVec.isLt _) (Memory.write_wf (BitVec.isLt _) h)

theorem State.acceptINT_wf {s : State} (h : s.mem.wf = true) : s.acceptINT.mem.wf = true := by
  rw [State.acceptINT_eq]
  exact Memory.write_wf (BitVec.isLt _) (Memory.write_wf (BitVec.isLt _) h)

theorem State.hostWrite_wf {s : State} (p : Word) (v : Byte) (h : s.mem.wf = true) : (s.hostWrite p v).mem.wf = true :=
  Memory.write_wf p.isLt h

theorem State.loadBytes_wf {s : State} (p : Word) (vs : List Byte) (h : s.mem.wf = true) :
    (s.loadBytes p vs).mem.wf = true := by
  induction vs generalizing s p with
  | nil => exact h
  | cons v rest ih => exact ih (p + 1) (Memory.write_wf p.isLt h)

theorem State.withFetchWord_wf {s : State} (nbits w : Nat) (h : s.mem.wf = true) :
    (s.withFetchWord nbits w).mem.wf = true :=
  State.loadBytes_wf (s := { s with activeNMI := false, activeINT := false }) _ _ h

theorem State.bpSet_wf {s : State} (p : Word) (h : bpWf s.bp = true) : bpWf (s.bpSet p).bp = true :=
  bpInsert_wf p.isLt h

theorem State.bpClear_wf {s : State} (p : Word) (h : bpWf s.bp = true) : bpWf (s.bpClear p).bp = true := bpErase_wf h

theorem State.bpResetAll_wf (s : State) : bpWf s.bpResetAll.bp = true := rfl

theorem State.reset_mem_wf : State.reset.mem.wf = true := rfl

end Sys2Proof.Machine
end

