-- ==== Sys2Proof/Laws/Cycle.lean ====
section
/-!
SUPPORT. What the phases of a step do, and what running one row of `dispatch` does.
-/

namespace Sys2Proof.Machine

/-! ## Operand bytes -/

/-- Reading `n` operand bytes moves PC and records the reads, and does nothing else (R160, R161). -/
theorem State.fetchOperands_eq (s : State) (n : Nat) :
    s.fetchOperands n = { s with
      pc := s.pc + BitVec.ofNat 16 n
      events := s.events ++ (List.range n).map fun k => Event.memRead (s.pc + BitVec.ofNat 16 k) } := by
  induction n generalizing s with
  | zero => simp [State.fetchOperands]
  | succ n ih =>
    have e : ∀ k : Nat, s.pc + 1 + BitVec.ofNat 16 k = s.pc + BitVec.ofNat 16 (k + 1) := by
      intro k
      rw [BitVec.add_assoc, BitVec.add_comm 1 (BitVec.ofNat 16 k), BitVec.ofNat_add]
      rfl
    have z : s.pc + BitVec.ofNat 16 0 = s.pc := BitVec.add_zero _
    rw [State.fetchOperands, ih, State.fetchOperand_eq]
    simp only [e, List.range_succ_eq_map, List.map_cons, List.map_map, Function.comp_def, z, List.append_assoc,
      List.cons_append, List.nil_append, Nat.succ_eq_add_one]

/-! ## The phases before dispatch -/

/-- The breakpoint check adds at most one event. -/
theorem State.checkBreakpoint_eq (s : State) :
    s.checkBreakpoint = { s with events := s.events ++ if s.bp.contains s.pc.toNat then [.notify] else [] } := by
  unfold State.checkBreakpoint
  split
  · rfl
  · rw [List.append_nil]

/-- The state from which a step that accepts no INT fetches (phases 1, 3, 4). -/
theorem State.atFetch_of_no_int {s : State} (h : s.intAccepted = false) :
    s.atFetch = { s with lastPC := s.pc, events := if s.bp.contains s.pc.toNat then [.notify] else [] } := by
  have h' : s.beginStep.intAccepted = false := h
  have hs : s.atFetch = s.beginStep.checkBreakpoint := by simp [State.atFetch, State.takeInt, h']
  rw [hs, State.checkBreakpoint_eq]
  rfl

/-- The state from which a step that accepts INT fetches (phases 1, 3, 4). -/
theorem State.atFetch_of_int {s : State} (h : s.intAccepted = true) :
    s.atFetch = s.beginStep.acceptINT.checkBreakpoint := by
  have h' : s.beginStep.intAccepted = true := h
  simp [State.atFetch, State.takeInt, h']

/-- The condition of INT acceptance (R615). -/
theorem State.intAccepted_iff (s : State) :
    s.intAccepted = true ↔ s.activeINT = true ∧ s.iff1 = true ∧ s.pendingEI = false := by
  simp only [State.intAccepted, Bool.and_eq_true, Bool.not_eq_true', and_assoc]

/-- The fetch of the first opcode byte (R605). -/
theorem State.fetchOpcode_eq (s : State) :
    s.fetchOpcode = { s with
      pc := s.pc + 1, r := refreshAfter s.r 1, flagQ := false, events := s.events ++ [.fetch s.pc] } := by
  rw [State.fetchOpcode, State.m1_eq]

/-! ## The step -/

/-- A step with an NMI latched is its acceptance (R603). -/
theorem step_of_nmi {s : State} (h : s.activeNMI = true) : step s = .next s.beginStep.acceptNMI := by
  simp [step, stepWith, h]

/-- A step with no NMI latched (R600). -/
theorem step_of_no_nmi {s : State} (h : s.activeNMI = false) :
    step s =
      match dispatch exec (Config.chainLimit - 1) (s.atFetch.byteAt s.atFetch.pc) s.atFetch.fetchOpcode with
      | .next t => .next (t.endStep (s.atFetch.byteAt s.atFetch.pc))
      | .fault r => .fault r
      | .refused r => .refused r :=
  if_neg (by rw [h]; exact Bool.false_ne_true)

/-! ## One row of `dispatch` -/

/-- A row whose meaning answers a next state and that is no prefix row ends the instruction. -/
theorem runRow_ends {ex : Instr → State → Result} {dom : Domain} {op : Byte} {s t : State}
    {k : Domain → Byte → State → Result} {i : Instr}
    (hi : decodeOp dom op (s.byteAt s.pc) (s.byteAt (s.pc + 1)) = i)
    (hx : ex i (s.fetchOperands i.operandCount) = .next t) (hc : i.continues = none) :
    runRow ex dom op s k = .next t := by
  subst hi
  simp only [runRow, hx, hc]

/-- A prefix row goes on with the next domain and its dispatching byte. -/
theorem runRow_continues {ex : Instr → State → Result} {dom dom' : Domain} {op : Byte} {s t : State}
    {k : Domain → Byte → State → Result} {i : Instr}
    (hi : decodeOp dom op (s.byteAt s.pc) (s.byteAt (s.pc + 1)) = i)
    (hx : ex i (s.fetchOperands i.operandCount) = .next t) (hc : i.continues = some dom') :
    runRow ex dom op s k =
      k dom' (if dom' = .base then op
        else (s.fetchOperands i.operandCount).byteAt (s.fetchOperands i.operandCount).pc) t := by
  subst hi
  simp only [runRow, hx, hc]

end Sys2Proof.Machine
end

