-- ==== Sys2Proof/Laws/Decode.lean ====
section
/-!
SUPPORT. The operand codes of the encoder and the decoder are inverse, field by field; bytes and words of a stream.
-/

namespace Sys2Proof

@[simp] theorem Reg8.ofCode_code (r : Reg8) : Reg8.ofCode r.code = r := by cases r <;> rfl
@[simp] theorem RegPair.ofCode_code (rp : RegPair) : RegPair.ofCode rp.code = rp := by cases rp <;> rfl
@[simp] theorem StackPair.ofCode_code (qq : StackPair) : StackPair.ofCode qq.code = qq := by cases qq <;> rfl
@[simp] theorem IndexPair.ofCode_code (rp : IndexPair) : IndexPair.ofCode rp.code = rp := by cases rp <;> rfl
@[simp] theorem IndexSrc.ofCode_code (s : IndexSrc) : IndexSrc.ofCode s.code = s := by cases s <;> rfl
@[simp] theorem Cond.ofCode_code (cc : Cond) : Cond.ofCode cc.code = cc := by cases cc <;> rfl

/-- A code but 110 is the code of the register it names (R143). -/
theorem Reg8.code_ofCode : ∀ k : BitVec 3, k ≠ 6 → (Reg8.ofCode k).code = k := by decide

theorem RegPair.code_ofCode : ∀ k : BitVec 2, (RegPair.ofCode k).code = k := by decide
theorem StackPair.code_ofCode : ∀ k : BitVec 2, (StackPair.ofCode k).code = k := by decide
theorem IndexPair.code_ofCode : ∀ k : BitVec 2, (IndexPair.ofCode k).code = k := by decide
theorem IndexSrc.code_ofCode : ∀ k : BitVec 3, k ≠ 6 → (IndexSrc.ofCode k).code = k := by decide
theorem Cond.code_ofCode : ∀ k : BitVec 3, (Cond.ofCode k).code = k := by decide

/-- A statement about every code of three bits is one about the eight codes. -/
theorem forall_code3 {P : BitVec 3 → Prop} : (∀ y, P y) ↔ P 0 ∧ P 1 ∧ P 2 ∧ P 3 ∧ P 4 ∧ P 5 ∧ P 6 ∧ P 7 := by
  refine ⟨fun h => ⟨h _, h _, h _, h _, h _, h _, h _, h _⟩, fun ⟨h0, h1, h2, h3, h4, h5, h6, h7⟩ y => ?_⟩
  have hy : y = 0 ∨ y = 1 ∨ y = 2 ∨ y = 3 ∨ y = 4 ∨ y = 5 ∨ y = 6 ∨ y = 7 := by revert y; decide
  rcases hy with h | h | h | h | h | h | h | h <;> subst h <;> assumption

/-- What `decodeRow` answers, by the instruction that the dispatching byte and the two bytes after it select. -/
theorem decodeRow_eq_ok {dom : Domain} {op : Byte} {tail rest : List Byte} {i : Instr} :
    decodeRow dom (op :: tail) = .ok (i, rest) ↔
      i = decodeOp dom op (tail.headD 0) (tail.tail.headD 0) ∧ i.operandCount ≤ tail.length ∧
        rest = tail.drop i.operandCount := by
  simp only [decodeRow]
  split
  · next h =>
    constructor
    · intro h'; cases h'
    · rintro ⟨rfl, h', -⟩; omega
  · next h =>
    constructor
    · intro h'
      cases h'
      exact ⟨rfl, by omega, rfl⟩
    · rintro ⟨rfl, -, rfl⟩; rfl

end Sys2Proof
end

