-- ==== Sys2Proof/Laws/Places.lean ====
section
/-!
SUPPORT. How a place comes to hold a value (`Place.Written`, `WordPlace.Written`): one lemma for each way an instruction writes
a result. `u` is a state with the registers, index registers and memory of `s`: `s` after reads, fetches and flag writes.
-/

namespace Sys2Proof.Machine

/-- The two states have the same registers A to L, index registers and memory. -/
def SameOperands (s u : State) : Prop :=
  (∀ j : Reg8, u.getR8 j = s.getR8 j) ∧ (∀ y : IndexReg, u.getX y = s.getX y) ∧ u.mem = s.mem

theorem SameOperands.refl (s : State) : SameOperands s s := ⟨fun _ => rfl, fun _ => rfl, rfl⟩

theorem SameOperands.emit {s u : State} (h : SameOperands s u) (ev : Event) : SameOperands s (u.emit ev) :=
  ⟨fun j => by rw [← h.1 j]; cases j <;> rfl, fun y => by rw [← h.2.1 y]; cases y <;> rfl, h.2.2⟩

theorem SameOperands.indexed {s u : State} (h : SameOperands s u) (x : IndexReg) (d : Byte) :
    SameOperands s (u.indexed x d) :=
  ⟨fun j => by rw [← h.1 j]; cases j <;> rfl, fun y => by rw [← h.2.1 y]; cases y <;> rfl, h.2.2⟩

theorem SameOperands.setFlags {s u : State} (h : SameOperands s u) (f : Byte) : SameOperands s (u.setFlags f) :=
  ⟨fun j => by rw [← h.1 j]; cases j <;> rfl, fun y => by rw [← h.2.1 y]; cases y <;> rfl, h.2.2⟩

theorem SameOperands.byteAt {s u : State} (h : SameOperands s u) (p : Word) : u.byteAt p = s.byteAt p :=
  State.byteAt_of_mem_eq h.2.2 p

/-- A register written. -/
theorem Place.written_r {s u : State} (k : Reg8) (v : Byte) (h : SameOperands s u) :
    (Place.r k).Written s (u.setR8 k v) v := by
  refine ⟨fun j => ?_, fun y => ?_, fun a ha => ?_, fun q _ => ?_⟩
  · simp only [Place.reg, State.getR8_setR8, Option.some.injEq, h.1, eq_comm]
  · simp only [Place.indexAfter, State.getX_setR8, h.2.1]
  · simp only [Place.addr, reduceCtorEq] at ha
  · rw [State.byteAt_setR8, h.byteAt]

theorem State.getR8_memWrite (s : State) (p : Word) (v : Byte) (k : Reg8) : (s.memWrite p v).getR8 k = s.getR8 k := by
  cases k <;> rfl

theorem State.getX_memWrite (s : State) (p : Word) (v : Byte) (x : IndexReg) : (s.memWrite p v).getX x = s.getX x := by
  cases x <;> rfl

/-- The byte at HL written. -/
theorem Place.written_hl {s u : State} (v : Byte) (h : SameOperands s u) :
    Place.hl.Written s (u.memWrite s.hl v) v := by
  refine ⟨fun j => ?_, fun y => ?_, fun a ha => ?_, fun q hq => ?_⟩
  · simp only [Place.reg, State.getR8_memWrite, h.1, reduceCtorEq, if_false]
  · simp only [Place.indexAfter, State.getX_memWrite, h.2.1]
  · simp only [Place.addr, Option.some.injEq] at ha
    rw [State.byteAt_memWrite, if_pos ha.symm]
  · simp only [Place.addr, ne_eq, Option.some.injEq] at hq
    rw [State.byteAt_memWrite, if_neg (Ne.symm hq), h.byteAt]

/-- The byte at the effective address written. -/
theorem Place.written_xd {s u : State} (x : IndexReg) (d v : Byte) (h : SameOperands s u) :
    (Place.xd x d).Written s (u.memWrite (s.ea x d) v) v := by
  refine ⟨fun j => ?_, fun y => ?_, fun a ha => ?_, fun q hq => ?_⟩
  · simp only [Place.reg, State.getR8_memWrite, h.1, reduceCtorEq, if_false]
  · simp only [Place.indexAfter, State.getX_memWrite, h.2.1]
  · simp only [Place.addr, Option.some.injEq] at ha
    rw [State.byteAt_memWrite, if_pos ha.symm]
  · simp only [Place.addr, ne_eq, Option.some.injEq] at hq
    rw [State.byteAt_memWrite, if_neg (Ne.symm hq), h.byteAt]

/-- The byte at the effective address and a register written. -/
theorem Place.written_xdr {s u : State} (x : IndexReg) (d : Byte) (k : Reg8) (v : Byte) (h : SameOperands s u) :
    (Place.xdr x d k).Written s ((u.memWrite (s.ea x d) v).setR8 k v) v := by
  refine ⟨fun j => ?_, fun y => ?_, fun a ha => ?_, fun q hq => ?_⟩
  · simp only [Place.reg, State.getR8_setR8, State.getR8_memWrite, h.1, Option.some.injEq, eq_comm]
  · simp only [Place.indexAfter, State.getX_setR8, State.getX_memWrite, h.2.1]
  · simp only [Place.addr, Option.some.injEq] at ha
    rw [State.byteAt_setR8, State.byteAt_memWrite, if_pos ha.symm]
  · simp only [Place.addr, ne_eq, Option.some.injEq] at hq
    rw [State.byteAt_setR8, State.byteAt_memWrite, if_neg (Ne.symm hq), h.byteAt]

/-- XH written. -/
theorem Place.written_xh {s u : State} (x : IndexReg) (v : Byte) (h : SameOperands s u) :
    (Place.xh x).Written s (u.setXh x v) v := by
  refine ⟨fun j => ?_, fun y => ?_, fun a ha => ?_, fun q _ => ?_⟩
  · simp only [Place.reg, State.setXh, State.getR8_setX, h.1, reduceCtorEq, if_false]
  · simp only [Place.indexAfter, State.setXh, State.getXl, State.getX_setX, h.2.1]
    split
    · next hy => rw [hy]
    · rfl
  · simp only [Place.addr, reduceCtorEq] at ha
  · exact (State.byteAt_of_mem_eq (State.setX_mem u x _) q).trans (h.byteAt q)

/-- XL written. -/
theorem Place.written_xl {s u : State} (x : IndexReg) (v : Byte) (h : SameOperands s u) :
    (Place.xl x).Written s (u.setXl x v) v := by
  refine ⟨fun j => ?_, fun y => ?_, fun a ha => ?_, fun q _ => ?_⟩
  · simp only [Place.reg, State.setXl, State.getR8_setX, h.1, reduceCtorEq, if_false]
  · simp only [Place.indexAfter, State.setXl, State.getXh, State.getX_setX, h.2.1]
    split
    · next hy => rw [hy]
    · rfl
  · simp only [Place.addr, reduceCtorEq] at ha
  · exact (State.byteAt_of_mem_eq (State.setX_mem u x _) q).trans (h.byteAt q)

/-- A pair written, by its accessor. -/
theorem WordPlace.written_rp {s u : State} (k : RegPair) (w : Word) (hp : ∀ j, pairValue u j = pairValue s j)
    (hx : ∀ y, u.getX y = s.getX y) : (WordPlace.rp k).Written s (u.setRp k w) w := by
  refine ⟨fun j => ?_, fun y => ?_⟩
  · have h : pairValue (u.setRp k w) j = if j = k then w else pairValue u j := by
      cases j <;> cases k <;> simp [pairValue, State.setRp, State.setBc, State.setDe, State.setHl]
    simp only [h, hp, WordPlace.rp.injEq, eq_comm]
  · have h : (u.setRp k w).getX y = u.getX y := by cases y <;> cases k <;> rfl
    simp only [h, hx, reduceCtorEq, if_false]

/-- An index register written. -/
theorem WordPlace.written_x {s u : State} (x : IndexReg) (w : Word) (hp : ∀ j, pairValue u j = pairValue s j)
    (hx : ∀ y, u.getX y = s.getX y) : (WordPlace.x x).Written s (u.setX x w) w := by
  refine ⟨fun j => ?_, fun y => ?_⟩
  · have h : pairValue (u.setX x w) j = pairValue u j := by cases j <;> cases x <;> rfl
    simp only [h, hp, reduceCtorEq, if_false]
  · simp only [State.getX_setX, hx, WordPlace.x.injEq, eq_comm]

end Sys2Proof.Machine
end

