-- ==== Sys2Proof/Laws/Instr.lean ====
section
/-!
SUPPORT. One equation for each operation that a family of instructions shares: the state it answers, written out from the
state it is given. Statements about an instruction cite these and never unfold the operation.
-/

namespace Sys2Proof.Machine

/-! ## The accumulator operations and the read-modify-write forms -/

/-- The eight accumulator operations on an operand (R356). -/
theorem State.alu_eq (s : State) (op : AluOp) (x : Byte) :
    s.alu op x = { s with
      a := (op.compute s.a x (flag .c s.f)).1, f := (op.compute s.a x (flag .c s.f)).2, flagQ := true } := rfl

/-- The read-modify-write form r, for a modification that writes flags. -/
theorem State.modifyR8_eq (s : State) (k : Reg8) (g : Modify) :
    s.modifyR8 k g = (g s (s.getR8 k)).2.setR8 k (g s (s.getR8 k)).1 := rfl

/-- The read-modify-write form on a byte of memory (R112). -/
theorem State.modifyMem_eq (s : State) (p : Word) (g : Modify) :
    s.modifyMem p g =
      (let o := g (s.emit (.memRead p)) (s.byteAt p)
       o.2.memWrite p o.1) := rfl

/-! ## Block instructions (R301 to R328) -/

/-- LDI and LDD. -/
theorem State.blockTransfer_eq (s : State) (δ : Word) :
    s.blockTransfer δ =
      (let v := s.byteAt s.hl
       { s with
        h := hi8 (s.hl + δ), l := lo8 (s.hl + δ), d := hi8 (s.de + δ), e := lo8 (s.de + δ), b := hi8 (s.bc - 1)
        c := lo8 (s.bc - 1), f := transferFlags s.a v s.f (s.bc - 1 != 0), flagQ := true
        mem := s.mem.write s.de.toNat v, events := s.events ++ [.memRead s.hl, .memWrite s.de v] }) := by
  simp [State.blockTransfer, State.memRead, State.emit, State.memWrite, State.setHl, State.setDe, State.setBc, State.setFlags,
    State.hl, State.de, State.bc]

/-- CPI and CPD. -/
theorem State.blockCompare_eq (s : State) (δ : Word) :
    s.blockCompare δ = { s with
      h := hi8 (s.hl + δ), l := lo8 (s.hl + δ), b := hi8 (s.bc - 1), c := lo8 (s.bc - 1), memptr := s.memptr + δ
      f := compareFlags s.a (s.byteAt s.hl) s.f (s.bc - 1 != 0), flagQ := true
      events := s.events ++ [.memRead s.hl] } := by
  simp [State.blockCompare, State.memRead, State.emit, State.setHl, State.setBc, State.setFlags, State.hl, State.bc]

/-- INI and IND. -/
theorem State.blockIn_eq (s : State) (δ : Word) :
    s.blockIn δ =
      (let v := s.portAnswer s.bc
       { s with
        b := s.b - 1, h := hi8 (s.hl + δ), l := lo8 (s.hl + δ), memptr := s.bc + δ
        f := ioFlags (s.b - 1) v (v.toNat + (s.c + lo8 δ).toNat), flagQ := true, mem := s.mem.write s.hl.toNat v
        portIn := s.portIn.tail, portReads := s.portReads + 1
        events := s.events ++ [.portRead s.bc v, .memWrite s.hl v] }) := by
  simp [State.blockIn, State.portRead, State.memWrite, State.setHl, State.setFlags]

/-- OUTI and OUTD. -/
theorem State.blockOut_eq (s : State) (δ : Word) :
    s.blockOut δ =
      (let v := s.byteAt s.hl
       let port := mk16 (s.b - 1) s.c
       { s with
        b := s.b - 1, h := hi8 (s.hl + δ), l := lo8 (s.hl + δ), memptr := port + δ
        f := ioFlags (s.b - 1) v (v.toNat + (lo8 (s.hl + δ)).toNat), flagQ := true
        events := s.events ++ [.memRead s.hl, .portWrite port v] }) := by
  simp [State.blockOut, State.memRead, State.portWrite, State.emit, State.setHl, State.setFlags, State.bc, State.byteAt]

/-- The roll-back of the repeated I/O forms (R308). -/
theorem State.rollBack_eq (s : State) (p : Word) :
    s.rollBack p = { s with pc := s.pc - 2, events := s.events ++ [.contend p 5] } := rfl

/-- The roll-back of LDIR, LDDR, CPIR and CPDR (R308). -/
theorem State.rollBackMemptr_eq (s : State) (p : Word) :
    s.rollBackMemptr p = { s with memptr := s.pc - 1, pc := s.pc - 2, events := s.events ++ [.contend p 5] } := rfl

/-- The words that the block instructions step by, as the byte added to C (R321, R322). -/
theorem lo8_neg_one : lo8 (-1) = -1 := by decide

theorem lo8_one : lo8 1 = 1 := by decide

/-- "BC is not 0 after the decrement" in terms of BC before it. -/
theorem Word.sub_one_bne_zero (w : Word) : (w - 1 != 0) = decide (w ≠ 1) := by
  rw [Bool.eq_iff_iff, bne_iff_ne, decide_eq_true_iff]
  bv_omega

/-! ## Transfers of control, ports, exchanges -/

/-- A call (R507, R512). -/
theorem State.callTo_eq (s : State) (target : Word) :
    s.callTo target = { s.push s.pc with pc := target, memptr := target } := rfl

/-- RST's target (R148). -/
theorem rstTarget_eq (y : BitVec 3) : rstTarget y = BitVec.ofNat 16 (8 * y.toNat) := by
  revert y; decide

/-- A taken relative jump (R504). -/
theorem State.relativeJump_eq (s : State) (e : Byte) :
    s.relativeJump e =
      (let target : Word := BitVec.ofInt 16 ((s.pc.toNat : Int) + e.toInt)
       { s with pc := target, memptr := target }) := by
  simp only [State.relativeJump, add_sext16]
  rfl

/-- The condition of a conditional instruction (R145). -/
theorem State.holds_iff (s : State) (cc : Cond) : s.holds cc = true ↔ CondHolds cc s.f := by
  cases cc <;> simp [State.holds, CondHolds, condTest]

/-- IN r,(C) and IN (C) before the register is written (R552, R553). -/
theorem State.inputC_eq (s : State) :
    s.inputC =
      (let v := s.portAnswer s.bc
       (v, { s with
        memptr := s.bc + 1, f := parityFlags v s.f, flagQ := true, portIn := s.portIn.tail
        portReads := s.portReads + 1, events := s.events ++ [.portRead s.bc v] })) := rfl

/-- OUT (C),r and OUT (C),0 (R554, R555). -/
theorem State.outputC_eq (s : State) (v : Byte) :
    s.outputC v = { s with memptr := s.bc + 1, events := s.events ++ [.portWrite s.bc v] } := rfl

/-- EX (SP),HL and EX (SP),X: the word at SP, and the state after the exchange (R273, R274). -/
theorem State.exchangeTop_eq (s : State) (w : Word) :
    s.exchangeTop w = (s.wordAt s.sp, { s with
      memptr := s.wordAt s.sp, mem := (s.mem.write (s.sp + 1).toNat (hi8 w)).write s.sp.toNat (lo8 w)
      events := s.events ++
        [.memRead s.sp, .memRead (s.sp + 1), .memWrite (s.sp + 1) (hi8 w), .memWrite s.sp (lo8 w)] }) := by
  simp only [State.exchangeTop, State.memRead16_eq, State.memWrite, List.append_assoc, List.cons_append, List.nil_append]

end Sys2Proof.Machine
end

