-- ==== Sys2Proof/Tests/Slice0.lean ====
section
/-!
SUPPORT. Tests of the model: ill-formed terms are refused; a word of every row of the opcode table, written out from its
encoding column, decodes to the row's instruction; single steps against the vectors of 95_test_vectors.md; the table
word placed by `withFetchWord` is the one the next step runs; and for every statement with hypotheses a state and operands
that meet them.
-/

set_option Elab.async false

namespace Sys2Proof.Tests
open Sys2Proof Sys2Proof.Machine

/-! ## WellFormed refuses what an encoding cannot hold -/

theorem test_wf_jr_has_four_conditions : (Instr.jrCc .po 0x00).wf = false ∧ (Instr.jrCc .c 0x00).wf = true := by decide
theorem test_wf_ld_r_xh_has_no_h : (Instr.ldRXh .ix .h).wf = false ∧ (Instr.ldRXh .ix .e).wf = true := by decide
theorem test_wf_ld_r_xl_has_no_l : (Instr.ldRXl .iy .l).wf = false ∧ (Instr.ldRXl .iy .a).wf = true := by decide
theorem test_wf_retn_is_not_reti : (Instr.retn 1).wf = false ∧ (Instr.retn 0).wf = true := by decide
theorem test_wf_im0_codes : (Instr.im0 2).wf = false ∧ (Instr.im0 5).wf = true := by decide
theorem test_wf_im1_codes : (Instr.im1 3).wf = false ∧ (Instr.im1 6).wf = true := by decide
theorem test_wf_im2_codes : (Instr.im2 0).wf = false ∧ (Instr.im2 7).wf = true := by decide
theorem test_wf_ed_no_op_is_unrecognized : (Instr.edNop 0xA0).wf = false ∧ (Instr.edNop 0x77).wf = true := by decide
theorem test_wf_fallback_has_no_row : (Instr.ddFallback .ix 0x21).wf = false ∧ (Instr.ddFallback .ix 0xDD).wf = true := by
  decide

/-! ## One word of every row of spec/opcode_table.json -/

/-- Every table word of the list (its length in bits, its value with the first byte lowest) decodes to the instruction
beside it. -/
def decodesTo (l : List (Nat × Nat × Instr)) : Bool := l.all fun (nbits, w, i) => decide (decodeTableWord nbits w = some i)

theorem test_decode_unprefixed_1 : decodesTo [
    (8, 0x00, .nop),
    (24, 0xFFFE21, .ldRpNn .hl 0xFFFE),
    (8, 0x02, .ldBcA),
    (8, 0x03, .incRp .bc),
    (8, 0x3C, .incR .a),
    (8, 0x15, .decR .d),
    (16, 0xE72E, .ldRN .l 0xE7),
    (8, 0x07, .rlca),
    (8, 0x08, .exAfAf),
    (8, 0x29, .addHlRp .hl),
    (8, 0x0A, .ldABc),
    (8, 0x0B, .decRp .bc),
    (8, 0x0F, .rrca),
    (16, 0x8010, .djnz 0x80),
    (8, 0x12, .ldDeA),
    (8, 0x17, .rla),
    (16, 0x8018, .jr 0x80),
    (8, 0x1A, .ldADe),
    (8, 0x1F, .rra),
    (16, 0x8020, .jrCc .nz 0x80),
    (24, 0x123422, .ldMemHl 0x1234),
    (8, 0x27, .daa),
    (24, 0x12342A, .ldHlMem 0x1234),
    (8, 0x2F, .cpl),
    (24, 0x123432, .ldMemA 0x1234),
    (8, 0x34, .incHl) ] = true := by decide +kernel

theorem test_decode_unprefixed_2 : decodesTo [
    (8, 0x35, .decHl),
    (16, 0x1236, .ldHlN 0x12),
    (8, 0x37, .scf),
    (24, 0xFFFE3A, .ldAMem 0xFFFE),
    (8, 0x3F, .ccf),
    (8, 0x5D, .ldRR .e .l),
    (8, 0x7E, .ldRHl .a),
    (8, 0x72, .ldHlR .d),
    (8, 0x76, .halt),
    (8, 0x81, .addR .c),
    (8, 0x86, .addHl),
    (16, 0x12C6, .addN 0x12),
    (8, 0x8B, .adcR .e),
    (8, 0x8E, .adcHl),
    (16, 0xE7CE, .adcN 0xE7),
    (8, 0x95, .subR .l),
    (8, 0x96, .subHl),
    (16, 0x12D6, .subN 0x12),
    (8, 0x98, .sbcR .b),
    (8, 0x9E, .sbcHl),
    (16, 0xE7DE, .sbcN 0xE7),
    (8, 0xA2, .andR .d),
    (8, 0xA6, .andHl),
    (16, 0x12E6, .andN 0x12),
    (8, 0xAC, .xorR .h),
    (8, 0xAE, .xorHl) ] = true := by decide +kernel

theorem test_decode_unprefixed_3 : decodesTo [
    (16, 0xE7EE, .xorN 0xE7),
    (8, 0xB7, .orR .a),
    (8, 0xB6, .orHl),
    (16, 0x12F6, .orN 0x12),
    (8, 0xB9, .cpR .c),
    (8, 0xBE, .cpHl),
    (16, 0xE7FE, .cpN 0xE7),
    (8, 0xC0, .retCc .nz),
    (8, 0xD1, .popQq .de),
    (24, 0xFFFED2, .jpCc .nc 0xFFFE),
    (24, 0x1234C3, .jp 0x1234),
    (24, 0xFFFEE4, .callCc .po 0xFFFE),
    (8, 0xD5, .pushQq .de),
    (8, 0xEF, .rst 5),
    (8, 0xC9, .ret),
    (8, 0xCB, .prefixCB),
    (24, 0x1234CD, .call 0x1234),
    (16, 0x12D3, .outNA 0x12),
    (8, 0xD9, .exx),
    (16, 0x12DB, .inAN 0x12),
    (8, 0xDD, .prefixDD),
    (8, 0xE3, .exSpHl),
    (8, 0xE9, .jpHl),
    (8, 0xEB, .exDeHl),
    (8, 0xED, .prefixED),
    (8, 0xF3, .di) ] = true := by decide +kernel

theorem test_decode_unprefixed_4 : decodesTo [
    (8, 0xF9, .ldSpHl),
    (8, 0xFB, .ei),
    (8, 0xFD, .prefixFD) ] = true := by decide +kernel

theorem test_decode_cb_1 : decodesTo [
    (16, 0x07CB, .rlcR .a),
    (16, 0x06CB, .rlcHl),
    (16, 0x0DCB, .rrcR .l),
    (16, 0x0ECB, .rrcHl),
    (16, 0x14CB, .rlR .h),
    (16, 0x16CB, .rlHl),
    (16, 0x1BCB, .rrR .e),
    (16, 0x1ECB, .rrHl),
    (16, 0x22CB, .slaR .d),
    (16, 0x26CB, .slaHl),
    (16, 0x29CB, .sraR .c),
    (16, 0x2ECB, .sraHl),
    (16, 0x30CB, .sllR .b),
    (16, 0x36CB, .sllHl),
    (16, 0x3FCB, .srlR .a),
    (16, 0x3ECB, .srlHl),
    (16, 0x6DCB, .bitR 5 .l),
    (16, 0x46CB, .bitHl 0),
    (16, 0x9CCB, .resR 3 .h),
    (16, 0xB6CB, .resHl 6),
    (16, 0xCBCB, .setR 1 .e),
    (16, 0xE6CB, .setHl 4) ] = true := by decide +kernel

theorem test_decode_ed_1 : decodesTo [
    (16, 0x50ED, .inRC .d),
    (16, 0x70ED, .inC),
    (16, 0x49ED, .outCR .c),
    (16, 0x71ED, .outC0),
    (16, 0x42ED, .sbcHlRp .bc),
    (16, 0x5AED, .adcHlRp .de),
    (32, 0xFFFE63ED, .ldMemRp .hl 0xFFFE),
    (32, 0x12347BED, .ldRpMem .sp 0x1234),
    (16, 0x7CED, .neg 7),
    (16, 0x55ED, .retn 2),
    (16, 0x4DED, .reti),
    (16, 0x46ED, .im0 0),
    (16, 0x76ED, .im1 6),
    (16, 0x5EED, .im2 3),
    (16, 0x47ED, .ldIA),
    (16, 0x4FED, .ldRefreshA),
    (16, 0x57ED, .ldAI),
    (16, 0x5FED, .ldARefresh),
    (16, 0x67ED, .rrd),
    (16, 0x6FED, .rld),
    (16, 0x7FED, .edNop 0x7F),
    (16, 0xA0ED, .ldi),
    (16, 0xA1ED, .cpi),
    (16, 0xA2ED, .ini),
    (16, 0xA3ED, .outi),
    (16, 0xA8ED, .ldd) ] = true := by decide +kernel

theorem test_decode_ed_2 : decodesTo [
    (16, 0xA9ED, .cpd),
    (16, 0xAAED, .ind),
    (16, 0xABED, .outd),
    (16, 0xB0ED, .ldir),
    (16, 0xB1ED, .cpir),
    (16, 0xB2ED, .inir),
    (16, 0xB3ED, .otir),
    (16, 0xB8ED, .lddr),
    (16, 0xB9ED, .cpdr),
    (16, 0xBAED, .indr),
    (16, 0xBBED, .otdr),
    (16, 0x26ED, .edNop 0x26),
    (16, 0x89ED, .edNop 0x89),
    (16, 0xA4ED, .edNop 0xA4),
    (16, 0xAFED, .edNop 0xAF),
    (16, 0xB6ED, .edNop 0xB6),
    (16, 0xBDED, .edNop 0xBD),
    (16, 0xF8ED, .edNop 0xF8) ] = true := by decide +kernel

theorem test_decode_index_1 : decodesTo [
    (16, 0x09FD, .addXRp .iy .bc),
    (32, 0x123421DD, .ldXNn .ix 0x1234),
    (32, 0xFFFE22FD, .ldMemX .iy 0xFFFE),
    (16, 0x23DD, .incX .ix),
    (16, 0x24FD, .incXh .iy),
    (16, 0x25DD, .decXh .ix),
    (24, 0x1226FD, .ldXhN .iy 0x12),
    (32, 0x12342ADD, .ldXMem .ix 0x1234),
    (16, 0x2BFD, .decX .iy),
    (16, 0x2CDD, .incXl .ix),
    (16, 0x2DFD, .decXl .iy),
    (24, 0xE72EDD, .ldXlN .ix 0xE7),
    (24, 0x0534FD, .incXd .iy 0x05),
    (24, 0x8035DD, .decXd .ix 0x80),
    (32, 0x12FF36FD, .ldXdN .iy 0xFF 0x12),
    (16, 0x7CDD, .ldRXh .ix .a),
    (16, 0x45FD, .ldRXl .iy .b),
    (24, 0xFF5EDD, .ldRXd .ix 0xFF .e),
    (16, 0x61FD, .ldXhS .iy .c),
    (16, 0x6FDD, .ldXlS .ix .a),
    (24, 0xFF75FD, .ldXdR .iy 0xFF .l),
    (16, 0x84DD, .addXh .ix),
    (16, 0x85FD, .addXl .iy),
    (24, 0xFF86DD, .addXd .ix 0xFF),
    (16, 0x8CFD, .adcXh .iy),
    (16, 0x8DDD, .adcXl .ix) ] = true := by decide +kernel

theorem test_decode_index_2 : decodesTo [
    (24, 0xFF8EFD, .adcXd .iy 0xFF),
    (16, 0x94DD, .subXh .ix),
    (16, 0x95FD, .subXl .iy),
    (24, 0xFF96DD, .subXd .ix 0xFF),
    (16, 0x9CFD, .sbcXh .iy),
    (16, 0x9DDD, .sbcXl .ix),
    (24, 0xFF9EFD, .sbcXd .iy 0xFF),
    (16, 0xA4DD, .andXh .ix),
    (16, 0xA5FD, .andXl .iy),
    (24, 0xFFA6DD, .andXd .ix 0xFF),
    (16, 0xACFD, .xorXh .iy),
    (16, 0xADDD, .xorXl .ix),
    (24, 0xFFAEFD, .xorXd .iy 0xFF),
    (16, 0xB4DD, .orXh .ix),
    (16, 0xB5FD, .orXl .iy),
    (24, 0xFFB6DD, .orXd .ix 0xFF),
    (16, 0xBCFD, .cpXh .iy),
    (16, 0xBDDD, .cpXl .ix),
    (24, 0xFFBEFD, .cpXd .iy 0xFF),
    (24, 0x05CBDD, .prefixXCB .ix 0x05),
    (16, 0xE1FD, .popX .iy),
    (16, 0xE3DD, .exSpX .ix),
    (16, 0xE5FD, .pushX .iy),
    (16, 0xE9DD, .jpX .ix),
    (16, 0xF9FD, .ldSpX .iy),
    (16, 0x3EDD, .ddFallback .ix 0x3E) ] = true := by decide +kernel

theorem test_decode_indexCB_1 : decodesTo [
    (32, 0x0680CBFD, .rlcXd .iy 0x80),
    (32, 0x07FFCBDD, .rlcXdR .ix 0xFF .a),
    (32, 0x0E05CBFD, .rrcXd .iy 0x05),
    (32, 0x0D80CBDD, .rrcXdR .ix 0x80 .l),
    (32, 0x16FFCBFD, .rlXd .iy 0xFF),
    (32, 0x1405CBDD, .rlXdR .ix 0x05 .h),
    (32, 0x1E80CBFD, .rrXd .iy 0x80),
    (32, 0x1BFFCBDD, .rrXdR .ix 0xFF .e),
    (32, 0x2605CBFD, .slaXd .iy 0x05),
    (32, 0x2280CBDD, .slaXdR .ix 0x80 .d),
    (32, 0x2EFFCBFD, .sraXd .iy 0xFF),
    (32, 0x2905CBDD, .sraXdR .ix 0x05 .c),
    (32, 0x3680CBFD, .sllXd .iy 0x80),
    (32, 0x30FFCBDD, .sllXdR .ix 0xFF .b),
    (32, 0x3E05CBFD, .srlXd .iy 0x05),
    (32, 0x3F80CBDD, .srlXdR .ix 0x80 .a),
    (32, 0x7FFFCBFD, .bitXd .iy 0xFF 7 7),
    (32, 0x9605CBDD, .resXd .ix 0x05 2),
    (32, 0xA980CBFD, .resXdR .iy 0x80 5 .c),
    (32, 0xC6FFCBDD, .setXd .ix 0xFF 0),
    (32, 0xD805CBFD, .setXdR .iy 0x05 3 .b) ] = true := by decide +kernel

/-! ## Single steps, from 95_test_vectors.md §3 (a vector's start state is the power-on state but for what it names) -/

/-- Place the listed bytes, then the instruction at PC; one step answers a next state that passes the check. -/
def oneStep (s : State) (bytes : List Byte) (cells : List (Word × Byte)) (check : State → Bool) : Bool :=
  let s1 := (cells.foldl (fun u c => u.loadBytes c.1 [c.2]) s).loadBytes s.pc bytes
  match step s1 with
  | .next t => check t
  | .fault _ => false
  | .refused _ => false

/-- V001 NOP: one M1 (R161); V004 DD DD FD chain: last prefix wins (R163); V005 DDCB: 2 M1s, d and op by MemRead (R165);
V007 ED 00 no-op with Log (R167); V008 ED DD is a no-op, not a prefix (R167). -/
theorem test_vectors_prefixes_and_fetch_1 : List.all [
    oneStep ({ State.reset with f := 0x00 }) [0x00] []
      fun t => t.pc == 0x0001 && t.r == 0x01,
    oneStep ({ State.reset with f := 0x00 }) [0xDD, 0xDD, 0xFD, 0x21, 0x34, 0x12] []
      fun t => t.pc == 0x0006 && t.iy == 0x1234 && t.r == 0x04,
    oneStep ({ State.reset with ix := 0x4000, f := 0x00 }) [0xDD, 0xCB, 0x05, 0x06] [(0x4005, 0x81)]
      fun t => t.f == 0x05 && t.pc == 0x0004 && t.r == 0x02 && t.memptr == 0x4005 && t.lastFlagQ &&
        t.byteAt 0x4005 == 0x03,
    oneStep ({ State.reset with f := 0x55, memptr := 0x1234 }) [0xED, 0x00] []
      fun t => t.pc == 0x0002 && t.r == 0x02 && t.events.contains .log,
    oneStep ({ State.reset with f := 0x00 }) [0xED, 0xDD, 0x00] []
      fun t => t.pc == 0x0002 && t.r == 0x02 && t.events.contains .log ] id = true := by decide +kernel

/-- V101 LD B,A (R200); V103 LD A,(HL) (R202); V104 LD (HL),n (R204); V105 LD A,(nn): MEMPTR = nn + 1 (R207); V106 LD
(BC),A: MEMPTR = A:(C+1) (R208); V107 LD (nn),A: MEMPTR = A:(lo(nn)+1) (R210); V108 LD A,(IX-1): negative
displacement (R211); V109 LD H,(IX+d) writes H, not IXh (R211). -/
theorem test_vectors_byte_loads_1 : List.all [
    oneStep ({ State.reset with a := 0x12, f := 0x00 }) [0x47] []
      fun t => t.b == 0x12 && t.pc == 0x0001 && t.r == 0x01,
    oneStep ({ State.reset with h := 0x40, l := 0x0, f := 0x00 }) [0x7E] [(0x4000, 0x5A)]
      fun t => t.a == 0x5A && t.pc == 0x0001 && t.r == 0x01,
    oneStep ({ State.reset with h := 0x40, l := 0x0, f := 0x00 }) [0x36, 0x77] []
      fun t => t.pc == 0x0002 && t.r == 0x01 && t.byteAt 0x4000 == 0x77,
    oneStep ({ State.reset with f := 0x00 }) [0x3A, 0x00, 0x40] [(0x4000, 0x33)]
      fun t => t.a == 0x33 && t.pc == 0x0003 && t.r == 0x01 && t.memptr == 0x4001,
    oneStep ({ State.reset with a := 0x12, b := 0x40, c := 0xff, f := 0x00 }) [0x02] []
      fun t => t.pc == 0x0001 && t.r == 0x01 && t.memptr == 0x1200 && t.byteAt 0x40FF == 0x12,
    oneStep ({ State.reset with a := 0x56, f := 0x00 }) [0x32, 0xFF, 0x40] []
      fun t => t.pc == 0x0003 && t.r == 0x01 && t.memptr == 0x5600 && t.byteAt 0x40FF == 0x56,
    oneStep ({ State.reset with ix := 0x4001, f := 0x00 }) [0xDD, 0x7E, 0xFF] [(0x4000, 0xA5)]
      fun t => t.a == 0xA5 && t.pc == 0x0003 && t.r == 0x02 && t.memptr == 0x4000,
    oneStep ({ State.reset with ix := 0x4000, f := 0x00 }) [0xDD, 0x66, 0x00] [(0x4000, 0x11)]
      fun t => t.h == 0x11 && t.pc == 0x0003 && t.r == 0x02 && t.memptr == 0x4000 ] id = true := by decide +kernel

/-- V110 LD (IY+d),n: d before n (R213); V111 LD IXh,IXl (R216); V112 LD IYl,n (R218); V113 LD A,I: PV = IFF2 (R231);
V114 LD A,R: R after both fetches (R232); V115 LD R,A overwrites the increments (R234); V116 LD A,I with zero: Z =
1, PV = 0 (R231). -/
theorem test_vectors_byte_loads_2 : List.all [
    oneStep ({ State.reset with iy := 0x4000, f := 0x00 }) [0xFD, 0x36, 0x02, 0x99] []
      fun t => t.pc == 0x0004 && t.r == 0x02 && t.memptr == 0x4002 && t.byteAt 0x4002 == 0x99,
    oneStep ({ State.reset with ix := 0x1234, f := 0x00 }) [0xDD, 0x65] []
      fun t => t.pc == 0x0002 && t.ix == 0x3434 && t.r == 0x02,
    oneStep ({ State.reset with iy := 0x1234, f := 0x00 }) [0xFD, 0x2E, 0x77] []
      fun t => t.pc == 0x0003 && t.iy == 0x1277 && t.r == 0x02,
    oneStep ({ State.reset with i := 0x80, iff2 := true, f := 0x01 }) [0xED, 0x57] []
      fun t => t.a == 0x80 && t.f == 0x85 && t.pc == 0x0002 && t.r == 0x02 && t.lastFlagQ,
    oneStep ({ State.reset with r := 0x7E, f := 0x00 }) [0xED, 0x5F] []
      fun t => t.a == 0x00 && t.f == 0x40 && t.pc == 0x0002 && t.r == 0x00 && t.lastFlagQ,
    oneStep ({ State.reset with a := 0x80, f := 0x00 }) [0xED, 0x4F] []
      fun t => t.pc == 0x0002 && t.r == 0x80,
    oneStep ({ State.reset with i := 0x00, f := 0x00 }) [0xED, 0x57] []
      fun t => t.a == 0x00 && t.f == 0x40 && t.pc == 0x0002 && t.r == 0x02 &&
        t.lastFlagQ ] id = true := by decide +kernel

/-- V201 LD BC,nn (R250); V202 LD HL,(nn) at 0xFFFF wraps (R251); V203 LD (nn),HL (R252); V204 LD SP,(nn) (ED form)
(R253); V205 LD (nn),DE (ED form) (R254); V206 LD SP,HL (R255); V207 PUSH AF with SP = 0x0000 (R264); V208 POP AF
writes all of F (R265). -/
theorem test_vectors_word_loads_stack_exchanges_1 : List.all [
    oneStep ({ State.reset with f := 0x00 }) [0x01, 0x34, 0x12] []
      fun t => t.b == 0x12 && t.c == 0x34 && t.pc == 0x0003 && t.r == 0x01,
    oneStep ({ State.reset with f := 0x00 }) [0x2A, 0xFF, 0xFF] [(0xFFFF, 0x34)]
      fun t => t.h == 0x2A && t.l == 0x34 && t.pc == 0x0003 && t.r == 0x01 && t.memptr == 0x0000,
    oneStep ({ State.reset with h := 0xab, l := 0xcd, f := 0x00 }) [0x22, 0x00, 0x40] []
      fun t => t.pc == 0x0003 && t.r == 0x01 && t.memptr == 0x4001 && t.byteAt 0x4000 == 0xCD &&
        t.byteAt 0x4001 == 0xAB,
    oneStep ({ State.reset with f := 0x00 }) [0xED, 0x7B, 0x00, 0x40] [(0x4000, 0x00), (0x4001, 0x80)]
      fun t => t.pc == 0x0004 && t.sp == 0x8000 && t.r == 0x02 && t.memptr == 0x4001,
    oneStep ({ State.reset with d := 0x12, e := 0x34, f := 0x00 }) [0xED, 0x53, 0x00, 0x40] []
      fun t => t.pc == 0x0004 && t.r == 0x02 && t.memptr == 0x4001 && t.byteAt 0x4000 == 0x34 &&
        t.byteAt 0x4001 == 0x12,
    oneStep ({ State.reset with h := 0x80, l := 0x0, f := 0x00 }) [0xF9] []
      fun t => t.pc == 0x0001 && t.sp == 0x8000 && t.r == 0x01,
    oneStep ({ State.reset with a := 0x12, f := 0xD7, sp := 0x0000 }) [0xF5] []
      fun t => t.pc == 0x0001 && t.sp == 0xFFFE && t.r == 0x01 && t.byteAt 0xFFFE == 0xD7 && t.byteAt 0xFFFF == 0x12,
    oneStep ({ State.reset with sp := 0x8000, f := 0x00 }) [0xF1] [(0x8000, 0xFF), (0x8001, 0x00)]
      fun t => t.a == 0x00 && t.f == 0xFF && t.pc == 0x0001 && t.sp == 0x8002 &&
        t.r == 0x01 ] id = true := by decide +kernel

/-- V209 PUSH IY (R266); V210 EX AF,AF' (R271); V211 EXX (R272); V212 EX (SP),HL (R273); V213 EX (SP),IX (R274); V214 EX
DE,HL (R270); V215 POP BC at SP = 0xFFFF wraps (R263). -/
theorem test_vectors_word_loads_stack_exchanges_2 : List.all [
    oneStep ({ State.reset with iy := 0xBEEF, sp := 0x8000, f := 0x00 }) [0xFD, 0xE5] []
      fun t => t.pc == 0x0002 && t.sp == 0x7FFE && t.r == 0x02 && t.byteAt 0x7FFE == 0xEF && t.byteAt 0x7FFF == 0xBE,
    oneStep ({ State.reset with a := 0x01, f := 0x02, a' := 0x03, f' := 0x04 }) [0x08] []
      fun t => t.a == 0x03 && t.f == 0x04 && t.a' == 0x01 && t.f' == 0x02 && t.pc == 0x0001 && t.r == 0x01,
    oneStep ({ State.reset with b := 0x11, c := 0x11, d := 0x22, e := 0x22, h := 0x33, l := 0x33, b' := 0xAA, c' := 0xBB, d' := 0xCC, e' := 0xDD, h' := 0xEE, l' := 0x00, f := 0x00 }) [0xD9] []
      fun t => t.b == 0xAA && t.c == 0xBB && t.d == 0xCC && t.e == 0xDD && t.h == 0xEE && t.l == 0x00 &&
        t.b' == 0x11 && t.c' == 0x11 && t.d' == 0x22 && t.e' == 0x22 && t.h' == 0x33 && t.l' == 0x33 &&
        t.pc == 0x0001 && t.r == 0x01,
    oneStep ({ State.reset with h := 0x12, l := 0x34, sp := 0x8000, f := 0x00 }) [0xE3] [(0x8000, 0x78), (0x8001, 0x56)]
      fun t => t.h == 0x56 && t.l == 0x78 && t.pc == 0x0001 && t.r == 0x01 && t.memptr == 0x5678 &&
        t.byteAt 0x8000 == 0x34 && t.byteAt 0x8001 == 0x12,
    oneStep ({ State.reset with ix := 0x1234, sp := 0x8000, f := 0x00 }) [0xDD, 0xE3] [(0x8000, 0x78), (0x8001, 0x56)]
      fun t => t.pc == 0x0002 && t.ix == 0x5678 && t.r == 0x02 && t.memptr == 0x5678 && t.byteAt 0x8000 == 0x34 &&
        t.byteAt 0x8001 == 0x12,
    oneStep ({ State.reset with d := 0x11, e := 0x11, h := 0x22, l := 0x22, f := 0x00 }) [0xEB] []
      fun t => t.d == 0x22 && t.e == 0x22 && t.h == 0x11 && t.l == 0x11 && t.pc == 0x0001 && t.r == 0x01,
    oneStep ({ State.reset with sp := 0xFFFF, f := 0x00 }) [0xC1] [(0x0000, 0xC1), (0xFFFF, 0x34)]
      fun t => t.b == 0xC1 && t.c == 0x34 && t.pc == 0x0001 && t.sp == 0x0001 &&
        t.r == 0x01 ] id = true := by decide +kernel

/-- V301 LDI, BC 2 -> 1 (R301); V303 LDD (R302); V304 LDIR one iteration (repeat) (R303); V306 CPI no match (R311); V308
CPIR repeat step (R313); V309 INI (R321); V310 IND (R322); V311 OUTI: port uses B after decrement (R325). -/
theorem test_vectors_block_instructions_1 : List.all [
    oneStep ({ State.reset with a := 0x00, h := 0x40, l := 0x0, d := 0x50, e := 0x0, b := 0x0, c := 0x2, f := 0x00 }) [0xED, 0xA0] [(0x4000, 0x0A)]
      fun t => t.f == 0x2C && t.c == 0x01 && t.e == 0x01 && t.l == 0x01 && t.pc == 0x0002 && t.r == 0x02 &&
        t.lastFlagQ && t.byteAt 0x5000 == 0x0A,
    oneStep ({ State.reset with a := 0x00, h := 0x40, l := 0x0, d := 0x50, e := 0x0, b := 0x0, c := 0x1, f := 0x00 }) [0xED, 0xA8] [(0x4000, 0x22)]
      fun t => t.f == 0x20 && t.c == 0x00 && t.d == 0x4F && t.e == 0xFF && t.h == 0x3F && t.l == 0xFF &&
        t.pc == 0x0002 && t.r == 0x02 && t.lastFlagQ && t.byteAt 0x5000 == 0x22,
    oneStep ({ State.reset with a := 0x00, h := 0x40, l := 0x0, d := 0x50, e := 0x0, b := 0x0, c := 0x2, f := 0x00 }) [0xED, 0xB0] [(0x4000, 0x01)]
      fun t => t.f == 0x04 && t.c == 0x01 && t.e == 0x01 && t.l == 0x01 && t.r == 0x02 && t.memptr == 0x0001 &&
        t.lastFlagQ && t.byteAt 0x5000 == 0x01 && t.events.contains (.contend 0x5000 5),
    oneStep ({ State.reset with a := 0x10, h := 0x40, l := 0x0, b := 0x0, c := 0x2, f := 0x00, memptr := 0x1000 }) [0xED, 0xA1] [(0x4000, 0x01)]
      fun t => t.f == 0x3E && t.c == 0x01 && t.l == 0x01 && t.pc == 0x0002 && t.r == 0x02 && t.memptr == 0x1001 &&
        t.lastFlagQ,
    oneStep ({ State.reset with a := 0x33, h := 0x40, l := 0x0, b := 0x0, c := 0x3, f := 0x00 }) [0xED, 0xB1] [(0x4000, 0x11), (0x4001, 0x33)]
      fun t => t.f == 0x26 && t.c == 0x02 && t.l == 0x01 && t.r == 0x02 && t.memptr == 0x0001 && t.lastFlagQ &&
        t.events.contains (.contend 0x4000 5),
    oneStep ({ State.reset with b := 0x01, c := 0x10, h := 0x40, l := 0x0, f := 0x00, portIn := [0x80] }) [0xED, 0xA2] []
      fun t => t.f == 0x42 && t.b == 0x00 && t.l == 0x01 && t.pc == 0x0002 && t.r == 0x02 && t.memptr == 0x0111 &&
        t.lastFlagQ && t.byteAt 0x4000 == 0x80 && t.events.contains (.portRead 0x0110 0x80),
    oneStep ({ State.reset with b := 0x02, c := 0x10, h := 0x40, l := 0x0, f := 0x00, portIn := [0x01] }) [0xED, 0xAA] []
      fun t => t.b == 0x01 && t.h == 0x3F && t.l == 0xFF && t.pc == 0x0002 && t.r == 0x02 && t.memptr == 0x020F &&
        t.lastFlagQ && t.byteAt 0x4000 == 0x01 && t.events.contains (.portRead 0x0210 0x01),
    oneStep ({ State.reset with b := 0x01, c := 0x98, h := 0x40, l := 0xff, f := 0x00 }) [0xED, 0xA3] [(0x40FF, 0x01)]
      fun t => t.f == 0x40 && t.b == 0x00 && t.h == 0x41 && t.l == 0x00 && t.pc == 0x0002 && t.r == 0x02 &&
        t.memptr == 0x0099 && t.lastFlagQ &&
        t.events.contains (.portWrite 0x0098 0x01) ] id = true := by decide +kernel

/-- V312 OUTD (R326); V313 INIR repeat step (R323); V314 OTIR last step (R327); V315 LDDR one iteration (repeat) (R304);
V316 CPDR exhausted (R314); V317 INDR last step (R324); V318 OTDR repeat step (R328). -/
theorem test_vectors_block_instructions_2 : List.all [
    oneStep ({ State.reset with b := 0x05, c := 0x98, h := 0x40, l := 0x0, f := 0x00 }) [0xED, 0xAB] [(0x4000, 0xF0)]
      fun t => t.f == 0x17 && t.b == 0x04 && t.h == 0x3F && t.l == 0xFF && t.pc == 0x0002 && t.r == 0x02 &&
        t.memptr == 0x0497 && t.lastFlagQ && t.events.contains (.portWrite 0x0498 0xF0),
    oneStep ({ State.reset with b := 0x02, c := 0x10, h := 0x40, l := 0x0, f := 0x00, portIn := [0x7F] }) [0xED, 0xB2] []
      fun t => t.b == 0x01 && t.l == 0x01 && t.r == 0x02 && t.memptr == 0x0211 && t.lastFlagQ &&
        t.byteAt 0x4000 == 0x7F && t.events.contains (.portRead 0x0210 0x7F) &&
        t.events.contains (.contend 0x4000 5),
    oneStep ({ State.reset with b := 0x01, c := 0x10, h := 0x40, l := 0x0, f := 0x00 }) [0xED, 0xB3] [(0x4000, 0x55)]
      fun t => t.f == 0x44 && t.b == 0x00 && t.l == 0x01 && t.pc == 0x0002 && t.r == 0x02 && t.memptr == 0x0011 &&
        t.lastFlagQ && t.events.contains (.portWrite 0x0010 0x55),
    oneStep ({ State.reset with a := 0x00, h := 0x40, l := 0x1, d := 0x50, e := 0x1, b := 0x0, c := 0x2, f := 0x00 }) [0xED, 0xB8] [(0x4001, 0x77)]
      fun t => t.f == 0x24 && t.c == 0x01 && t.e == 0x00 && t.l == 0x00 && t.r == 0x02 && t.memptr == 0x0001 &&
        t.lastFlagQ && t.byteAt 0x5001 == 0x77 && t.events.contains (.contend 0x5001 5),
    oneStep ({ State.reset with a := 0x99, h := 0x40, l := 0x0, b := 0x0, c := 0x1, f := 0x00, memptr := 0x2000 }) [0xED, 0xB9] [(0x4000, 0x11)]
      fun t => t.f == 0x8A && t.c == 0x00 && t.h == 0x3F && t.l == 0xFF && t.pc == 0x0002 && t.r == 0x02 &&
        t.memptr == 0x1FFF && t.lastFlagQ,
    oneStep ({ State.reset with b := 0x01, c := 0x10, h := 0x40, l := 0x0, f := 0x00, portIn := [0xFF] }) [0xED, 0xBA] []
      fun t => t.f == 0x57 && t.b == 0x00 && t.h == 0x3F && t.l == 0xFF && t.pc == 0x0002 && t.r == 0x02 &&
        t.memptr == 0x010F && t.lastFlagQ && t.byteAt 0x4000 == 0xFF && t.events.contains (.portRead 0x0110 0xFF),
    oneStep ({ State.reset with b := 0x02, c := 0x10, h := 0x40, l := 0x0, f := 0x00 }) [0xED, 0xBB] [(0x4000, 0x81)]
      fun t => t.f == 0x13 && t.b == 0x01 && t.h == 0x3F && t.l == 0xFF && t.r == 0x02 && t.memptr == 0x010F &&
        t.lastFlagQ && t.events.contains (.portWrite 0x0110 0x81) &&
        t.events.contains (.contend 0x0110 5) ] id = true := by decide +kernel

/-- V401 ADD A,n: half carry (R360); V402 ADD A,n: overflow (R360); V404 ADC A,B with carry in (R361); V405 SUB n:
borrow (R362); V407 SBC A,A with carry (R363); V408 AND n (R364); V409 XOR A (R365); V410 OR (HL) (R366). -/
theorem test_vectors_byte_arithmetic_1 : List.all [
    oneStep ({ State.reset with a := 0x0F, f := 0x00 }) [0xC6, 0x01] []
      fun t => t.a == 0x10 && t.f == 0x10 && t.pc == 0x0002 && t.r == 0x01 && t.lastFlagQ,
    oneStep ({ State.reset with a := 0x7F, f := 0x00 }) [0xC6, 0x01] []
      fun t => t.a == 0x80 && t.f == 0x94 && t.pc == 0x0002 && t.r == 0x01 && t.lastFlagQ,
    oneStep ({ State.reset with a := 0x0E, b := 0x01, f := 0x01 }) [0x88] []
      fun t => t.a == 0x10 && t.f == 0x10 && t.pc == 0x0001 && t.r == 0x01 && t.lastFlagQ,
    oneStep ({ State.reset with a := 0x00, f := 0x00 }) [0xD6, 0x01] []
      fun t => t.a == 0xFF && t.f == 0xBB && t.pc == 0x0002 && t.r == 0x01 && t.lastFlagQ,
    oneStep ({ State.reset with a := 0x55, f := 0x01 }) [0x9F] []
      fun t => t.a == 0xFF && t.f == 0xBB && t.pc == 0x0001 && t.r == 0x01 && t.lastFlagQ,
    oneStep ({ State.reset with a := 0x3C, f := 0x00 }) [0xE6, 0x0F] []
      fun t => t.a == 0x0C && t.f == 0x1C && t.pc == 0x0002 && t.r == 0x01 && t.lastFlagQ,
    oneStep ({ State.reset with a := 0x5A, f := 0xFF }) [0xAF] []
      fun t => t.a == 0x00 && t.f == 0x44 && t.pc == 0x0001 && t.r == 0x01 && t.lastFlagQ,
    oneStep ({ State.reset with a := 0x80, h := 0x40, l := 0x0, f := 0x00 }) [0xB6] [(0x4000, 0x01)]
      fun t => t.a == 0x81 && t.f == 0x84 && t.pc == 0x0001 && t.r == 0x01 &&
        t.lastFlagQ ] id = true := by decide +kernel

/-- V411 CP n: 5/3 from operand (R367); V413 INC r: 0x7F -> 0x80 (R370); V414 DEC r: 0x80 -> 0x7F (R374); V415 INC (HL):
0xFF -> 0x00 (R371); V416 DEC (IY+d) (R376); V417 INC IXh (R373); V419 DAA 0x9A (R380); V421 CPL (R381). -/
theorem test_vectors_byte_arithmetic_2 : List.all [
    oneStep ({ State.reset with a := 0x30, f := 0x00 }) [0xFE, 0x28] []
      fun t => t.f == 0x3A && t.pc == 0x0002 && t.r == 0x01 && t.lastFlagQ,
    oneStep ({ State.reset with a := 0x7F, f := 0x01 }) [0x3C] []
      fun t => t.a == 0x80 && t.f == 0x95 && t.pc == 0x0001 && t.r == 0x01 && t.lastFlagQ,
    oneStep ({ State.reset with b := 0x80, f := 0x00 }) [0x05] []
      fun t => t.f == 0x3E && t.b == 0x7F && t.pc == 0x0001 && t.r == 0x01 && t.lastFlagQ,
    oneStep ({ State.reset with h := 0x40, l := 0x0, f := 0x00 }) [0x34] [(0x4000, 0xFF)]
      fun t => t.f == 0x50 && t.pc == 0x0001 && t.r == 0x01 && t.lastFlagQ && t.byteAt 0x4000 == 0x00,
    oneStep ({ State.reset with iy := 0x4000, f := 0x01 }) [0xFD, 0x35, 0x10] [(0x4010, 0x01)]
      fun t => t.f == 0x43 && t.pc == 0x0003 && t.r == 0x02 && t.memptr == 0x4010 && t.lastFlagQ &&
        t.byteAt 0x4010 == 0x00,
    oneStep ({ State.reset with ix := 0xFF00, f := 0x00 }) [0xDD, 0x24] []
      fun t => t.f == 0x50 && t.pc == 0x0002 && t.ix == 0x0000 && t.r == 0x02 && t.lastFlagQ,
    oneStep ({ State.reset with a := 0x9A, f := 0x00 }) [0x27] []
      fun t => t.a == 0x00 && t.f == 0x55 && t.pc == 0x0001 && t.r == 0x01 && t.lastFlagQ,
    oneStep ({ State.reset with a := 0x5A, f := 0x00 }) [0x2F] []
      fun t => t.a == 0xA5 && t.f == 0x32 && t.pc == 0x0001 && t.r == 0x01 &&
        t.lastFlagQ ] id = true := by decide +kernel

/-- V422 NEG 0x80 (R382); V424 NEG mirror ED 7C (R382); V427 CCF (R387). -/
theorem test_vectors_byte_arithmetic_3 : List.all [
    oneStep ({ State.reset with a := 0x80, f := 0x00 }) [0xED, 0x44] []
      fun t => t.f == 0x87 && t.pc == 0x0002 && t.r == 0x02 && t.lastFlagQ,
    oneStep ({ State.reset with a := 0x01, f := 0x00 }) [0xED, 0x7C] []
      fun t => t.a == 0xFF && t.f == 0xBB && t.pc == 0x0002 && t.r == 0x02 && t.lastFlagQ,
    oneStep ({ State.reset with a := 0x28, f := 0x01 }) [0x3F] []
      fun t => t.f == 0x38 && t.pc == 0x0001 && t.r == 0x01 && t.lastFlagQ ] id = true := by decide +kernel

/-- V501 ADD HL,BC: half carry from bit 11 (R421); V502 ADD HL,HL: carry; S/Z/PV kept (R421); V503 ADD IX,SP (R422);
V504 ADC HL,DE: overflow (R423); V505 SBC HL,BC: zero (R424); V507 INC BC wraps, no flags (R425); V508 DEC SP
(R426); V509 INC IY (R427). -/
theorem test_vectors_word_arithmetic_1 : List.all [
    oneStep ({ State.reset with h := 0xf, l := 0xff, b := 0x0, c := 0x1, f := 0x00 }) [0x09] []
      fun t => t.f == 0x10 && t.h == 0x10 && t.l == 0x00 && t.pc == 0x0001 && t.r == 0x01 && t.memptr == 0x1000 &&
        t.lastFlagQ,
    oneStep ({ State.reset with h := 0x80, l := 0x0, f := 0xC4 }) [0x29] []
      fun t => t.f == 0xC5 && t.h == 0x00 && t.pc == 0x0001 && t.r == 0x01 && t.memptr == 0x8001 && t.lastFlagQ,
    oneStep ({ State.reset with ix := 0x1000, sp := 0x0001, f := 0x00 }) [0xDD, 0x39] []
      fun t => t.pc == 0x0002 && t.ix == 0x1001 && t.r == 0x02 && t.memptr == 0x1001 && t.lastFlagQ,
    oneStep ({ State.reset with h := 0x7f, l := 0xff, d := 0x0, e := 0x0, f := 0x01 }) [0xED, 0x5A] []
      fun t => t.f == 0x94 && t.h == 0x80 && t.l == 0x00 && t.pc == 0x0002 && t.r == 0x02 && t.memptr == 0x8000 &&
        t.lastFlagQ,
    oneStep ({ State.reset with h := 0x12, l := 0x34, b := 0x12, c := 0x33, f := 0x01 }) [0xED, 0x42] []
      fun t => t.f == 0x42 && t.h == 0x00 && t.l == 0x00 && t.pc == 0x0002 && t.r == 0x02 && t.memptr == 0x1235 &&
        t.lastFlagQ,
    oneStep ({ State.reset with b := 0xff, c := 0xff, f := 0x00 }) [0x03] []
      fun t => t.b == 0x00 && t.c == 0x00 && t.pc == 0x0001 && t.r == 0x01,
    oneStep ({ State.reset with sp := 0x0000, f := 0x00 }) [0x3B] []
      fun t => t.pc == 0x0001 && t.sp == 0xFFFF && t.r == 0x01,
    oneStep ({ State.reset with iy := 0x00FF, f := 0x00 }) [0xFD, 0x23] []
      fun t => t.pc == 0x0002 && t.iy == 0x0100 && t.r == 0x02 ] id = true := by decide +kernel

/-- V510 DEC IX (R428). -/
theorem test_vectors_word_arithmetic_2 : List.all [
    oneStep ({ State.reset with ix := 0x0000, f := 0x00 }) [0xDD, 0x2B] []
      fun t => t.pc == 0x0002 && t.ix == 0xFFFF && t.r == 0x02 ] id = true := by decide +kernel

/-- V601 RLCA (R450); V602 RRCA (R451); V603 RLA (R452); V604 RRA (R453); V606 RRC (HL) (R461); V607 RL C (R462); V608
RR D (R463); V609 SLA E (R464). -/
theorem test_vectors_rotates_and_bits_1 : List.all [
    oneStep ({ State.reset with a := 0x81, f := 0x00 }) [0x07] []
      fun t => t.a == 0x03 && t.f == 0x01 && t.pc == 0x0001 && t.r == 0x01 && t.lastFlagQ,
    oneStep ({ State.reset with a := 0x01, f := 0xC4 }) [0x0F] []
      fun t => t.a == 0x80 && t.f == 0xC5 && t.pc == 0x0001 && t.r == 0x01 && t.lastFlagQ,
    oneStep ({ State.reset with a := 0x80, f := 0x00 }) [0x17] []
      fun t => t.a == 0x00 && t.f == 0x01 && t.pc == 0x0001 && t.r == 0x01 && t.lastFlagQ,
    oneStep ({ State.reset with a := 0x01, f := 0x01 }) [0x1F] []
      fun t => t.a == 0x80 && t.pc == 0x0001 && t.r == 0x01 && t.lastFlagQ,
    oneStep ({ State.reset with h := 0x40, l := 0x0, f := 0x00 }) [0xCB, 0x0E] [(0x4000, 0x01)]
      fun t => t.f == 0x81 && t.pc == 0x0002 && t.r == 0x02 && t.lastFlagQ && t.byteAt 0x4000 == 0x80,
    oneStep ({ State.reset with c := 0x80, f := 0x00 }) [0xCB, 0x11] []
      fun t => t.f == 0x45 && t.c == 0x00 && t.pc == 0x0002 && t.r == 0x02 && t.lastFlagQ,
    oneStep ({ State.reset with d := 0x01, f := 0x01 }) [0xCB, 0x1A] []
      fun t => t.f == 0x81 && t.d == 0x80 && t.pc == 0x0002 && t.r == 0x02 && t.lastFlagQ,
    oneStep ({ State.reset with e := 0xC0, f := 0x00 }) [0xCB, 0x23] []
      fun t => t.f == 0x81 && t.e == 0x80 && t.pc == 0x0002 && t.r == 0x02 &&
        t.lastFlagQ ] id = true := by decide +kernel

/-- V610 SRA H (R465); V611 SLL L (undocumented) (R466); V612 SRL A (R467); V613 RLC (IX+d),B: DDCB copy (R460); V614
BIT 7,A set (R470); V616 BIT 0,(HL): 5/3 from MEMPTR (R472); V617 BIT 1,(IX+d): 5/3 from EA high (R473); V618 RES
0,A (R475). -/
theorem test_vectors_rotates_and_bits_2 : List.all [
    oneStep ({ State.reset with h := 0x81, f := 0x00 }) [0xCB, 0x2C] []
      fun t => t.f == 0x85 && t.h == 0xC0 && t.pc == 0x0002 && t.r == 0x02 && t.lastFlagQ,
    oneStep ({ State.reset with l := 0x80, f := 0x00 }) [0xCB, 0x35] []
      fun t => t.f == 0x01 && t.l == 0x01 && t.pc == 0x0002 && t.r == 0x02 && t.lastFlagQ,
    oneStep ({ State.reset with a := 0x01, f := 0x00 }) [0xCB, 0x3F] []
      fun t => t.a == 0x00 && t.f == 0x45 && t.pc == 0x0002 && t.r == 0x02 && t.lastFlagQ,
    oneStep ({ State.reset with ix := 0x4000, f := 0x00 }) [0xDD, 0xCB, 0x01, 0x00] [(0x4001, 0x81)]
      fun t => t.f == 0x05 && t.b == 0x03 && t.pc == 0x0004 && t.r == 0x02 && t.memptr == 0x4001 && t.lastFlagQ &&
        t.byteAt 0x4001 == 0x03,
    oneStep ({ State.reset with a := 0x80, f := 0x00 }) [0xCB, 0x7F] []
      fun t => t.f == 0x90 && t.pc == 0x0002 && t.r == 0x02 && t.lastFlagQ,
    oneStep ({ State.reset with h := 0x40, l := 0x0, memptr := 0x2800, f := 0x00 }) [0xCB, 0x46] [(0x4000, 0x01)]
      fun t => t.f == 0x38 && t.pc == 0x0002 && t.r == 0x02 && t.lastFlagQ,
    oneStep ({ State.reset with ix := 0x2800, f := 0x00 }) [0xDD, 0xCB, 0x00, 0x4E] [(0x2800, 0x00)]
      fun t => t.f == 0x7C && t.pc == 0x0004 && t.r == 0x02 && t.memptr == 0x2800 && t.lastFlagQ,
    oneStep ({ State.reset with a := 0xFF, f := 0x00 }) [0xCB, 0x87] []
      fun t => t.a == 0xFE && t.pc == 0x0002 && t.r == 0x02 ] id = true := by decide +kernel

/-- V619 RES 7,(IY+d),C (R477); V620 SET 7,B (R480); V621 SET 0,(IX+d) (R482); V622 RLD (R490); V623 RRD (R491). -/
theorem test_vectors_rotates_and_bits_3 : List.all [
    oneStep ({ State.reset with iy := 0x4000, f := 0x00 }) [0xFD, 0xCB, 0x02, 0xB9] [(0x4002, 0xFF)]
      fun t => t.c == 0x7F && t.pc == 0x0004 && t.r == 0x02 && t.memptr == 0x4002 && t.byteAt 0x4002 == 0x7F,
    oneStep ({ State.reset with b := 0x00, f := 0x00 }) [0xCB, 0xF8] []
      fun t => t.b == 0x80 && t.pc == 0x0002 && t.r == 0x02,
    oneStep ({ State.reset with ix := 0x4001, f := 0x00 }) [0xDD, 0xCB, 0xFF, 0xC6] [(0x4000, 0x00)]
      fun t => t.pc == 0x0004 && t.r == 0x02 && t.memptr == 0x4000 && t.byteAt 0x4000 == 0x01,
    oneStep ({ State.reset with a := 0x12, h := 0x40, l := 0x0, f := 0x01 }) [0xED, 0x6F] [(0x4000, 0x34)]
      fun t => t.a == 0x13 && t.pc == 0x0002 && t.r == 0x02 && t.memptr == 0x4001 && t.lastFlagQ &&
        t.byteAt 0x4000 == 0x42,
    oneStep ({ State.reset with a := 0x12, h := 0x40, l := 0x0, f := 0x00 }) [0xED, 0x67] [(0x4000, 0x34)]
      fun t => t.a == 0x14 && t.f == 0x04 && t.pc == 0x0002 && t.r == 0x02 && t.memptr == 0x4001 && t.lastFlagQ &&
        t.byteAt 0x4000 == 0x23 ] id = true := by decide +kernel

/-- V701 JP nn (R500); V702 JP Z not taken: MEMPTR still nn (R501); V704 JP (HL) (R502); V705 JP (IY) (R503); V706 JR -2
(to itself) (R504); V708 JR C taken backwards (R505); V709 JR NZ not taken (R505); V710 DJNZ B = 1 falls through
(R506). -/
theorem test_vectors_control_transfers_1 : List.all [
    oneStep ({ State.reset with f := 0x00 }) [0xC3, 0x34, 0x12] []
      fun t => t.pc == 0x1234 && t.r == 0x01 && t.memptr == 0x1234,
    oneStep ({ State.reset with f := 0x00 }) [0xCA, 0x34, 0x12] []
      fun t => t.pc == 0x0003 && t.r == 0x01 && t.memptr == 0x1234,
    oneStep ({ State.reset with h := 0x80, l := 0x0, f := 0x00 }) [0xE9] []
      fun t => t.pc == 0x8000 && t.r == 0x01,
    oneStep ({ State.reset with iy := 0x9000, f := 0x00 }) [0xFD, 0xE9] []
      fun t => t.pc == 0x9000 && t.r == 0x02,
    oneStep ({ State.reset with pc := 0x0100, f := 0x00 }) [0x18, 0xFE] []
      fun t => t.r == 0x01 && t.memptr == 0x0100,
    oneStep ({ State.reset with pc := 0x0100, f := 0x01 }) [0x38, 0x80] []
      fun t => t.pc == 0x0082 && t.r == 0x01 && t.memptr == 0x0082,
    oneStep ({ State.reset with pc := 0x0100, f := 0x40 }) [0x20, 0x10] []
      fun t => t.pc == 0x0102 && t.r == 0x01,
    oneStep ({ State.reset with pc := 0x0100, b := 0x01, f := 0x00 }) [0x10, 0xFE] []
      fun t => t.b == 0x00 && t.pc == 0x0102 && t.r == 0x01 ] id = true := by decide +kernel

/-- V712 CALL nn with SP = 0x0000 (R507); V713 CALL NZ not taken (R508); V715 RET (R509); V716 RET PO not taken (R510);
V717 RST 38H (R512); V719 RETN: IFF1 <- IFF2 (R520); V720 RETI: IFF1 <- IFF2 (R521). -/
theorem test_vectors_control_transfers_2 : List.all [
    oneStep ({ State.reset with pc := 0x0100, sp := 0x0000, f := 0x00 }) [0xCD, 0x00, 0x20] []
      fun t => t.pc == 0x2000 && t.sp == 0xFFFE && t.r == 0x01 && t.memptr == 0x2000 && t.byteAt 0xFFFE == 0x03 &&
        t.byteAt 0xFFFF == 0x01,
    oneStep ({ State.reset with pc := 0x0100, sp := 0x1000, f := 0x40 }) [0xC4, 0x00, 0x20] []
      fun t => t.pc == 0x0103 && t.r == 0x01 && t.memptr == 0x2000,
    oneStep ({ State.reset with sp := 0x0FFE, f := 0x00 }) [0xC9] [(0x0FFE, 0x34), (0x0FFF, 0x12)]
      fun t => t.pc == 0x1234 && t.sp == 0x1000 && t.r == 0x01 && t.memptr == 0x1234,
    oneStep ({ State.reset with pc := 0x0100, sp := 0x0FFE, f := 0x04 }) [0xE0] []
      fun t => t.pc == 0x0101 && t.r == 0x01,
    oneStep ({ State.reset with pc := 0x0100, sp := 0x1000, f := 0x00 }) [0xFF] []
      fun t => t.pc == 0x0038 && t.sp == 0x0FFE && t.r == 0x01 && t.memptr == 0x0038 && t.byteAt 0x0FFE == 0x01 &&
        t.byteAt 0x0FFF == 0x01,
    oneStep ({ State.reset with iff1 := false, iff2 := true, sp := 0x0FFE, f := 0x00 }) [0xED, 0x45] [(0x0FFE, 0x34), (0x0FFF, 0x12)]
      fun t => t.pc == 0x1234 && t.sp == 0x1000 && t.r == 0x02 && t.memptr == 0x1234 && t.iff1,
    oneStep ({ State.reset with iff1 := true, iff2 := false, sp := 0x0FFE, f := 0x00 }) [0xED, 0x4D] [(0x0FFE, 0x34), (0x0FFF, 0x12)]
      fun t => t.pc == 0x1234 && t.sp == 0x1000 && t.r == 0x02 && t.memptr == 0x1234 &&
        !t.iff1 ] id = true := by decide +kernel

/-- V801 IN A,(n): port A:n (R550); V803 OUT (n),A: MEMPTR low byte wraps (R551); V804 IN A,(C): zero (R552); V806 IN
(C): flags only (R553); V807 OUT (C),A (R554); V809 OUT (C),0 (R555). -/
theorem test_vectors_input_output_1 : List.all [
    oneStep ({ State.reset with a := 0x12, f := 0x00, portIn := [0xBF] }) [0xDB, 0xFE] []
      fun t => t.a == 0xBF && t.pc == 0x0002 && t.r == 0x01 && t.memptr == 0x12FF &&
        t.events.contains (.portRead 0x12FE 0xBF),
    oneStep ({ State.reset with a := 0x12, f := 0x00 }) [0xD3, 0xFF] []
      fun t => t.pc == 0x0002 && t.r == 0x01 && t.memptr == 0x1200 && t.events.contains (.portWrite 0x12FF 0x12),
    oneStep ({ State.reset with b := 0x12, c := 0xfe, f := 0x01, portIn := [0x00] }) [0xED, 0x78] []
      fun t => t.a == 0x00 && t.f == 0x45 && t.pc == 0x0002 && t.r == 0x02 && t.memptr == 0x12FF && t.lastFlagQ &&
        t.events.contains (.portRead 0x12FE 0x00),
    oneStep ({ State.reset with b := 0x12, c := 0xfe, a := 0x55, f := 0x01, portIn := [0x28] }) [0xED, 0x70] []
      fun t => t.f == 0x2D && t.pc == 0x0002 && t.r == 0x02 && t.memptr == 0x12FF && t.lastFlagQ &&
        t.events.contains (.portRead 0x12FE 0x28),
    oneStep ({ State.reset with b := 0x12, c := 0xfe, a := 0x55, f := 0x00 }) [0xED, 0x79] []
      fun t => t.pc == 0x0002 && t.r == 0x02 && t.memptr == 0x12FF && t.events.contains (.portWrite 0x12FE 0x55),
    oneStep ({ State.reset with b := 0xff, c := 0xff, f := 0x00 }) [0xED, 0x71] []
      fun t => t.pc == 0x0002 && t.r == 0x02 && t.memptr == 0x0000 &&
        t.events.contains (.portWrite 0xFFFF 0x00) ] id = true := by decide +kernel

/-- V902 HALT: PC stays on it (R581); V904 DI (R582); V905 EI (R583); V907 DD FB: pendingEI cleared at once (R583); V908
IM 2 (R584); V910 IM 0 mirror ED 6E (R584); V911 ED no-op ED 77 (R585). -/
theorem test_vectors_cpu_control_1 : List.all [
    oneStep ({ State.reset with pc := 0x0100, f := 0x00 }) [0x76] []
      fun t => t.r == 0x01 && t.halted,
    oneStep ({ State.reset with iff1 := true, iff2 := true, f := 0x00 }) [0xF3] []
      fun t => t.pc == 0x0001 && t.r == 0x01 && !t.iff1 && !t.iff2,
    oneStep ({ State.reset with f := 0x00 }) [0xFB] []
      fun t => t.pc == 0x0001 && t.r == 0x01 && t.iff1 && t.iff2 && t.pendingEI,
    oneStep ({ State.reset with f := 0x00 }) [0xDD, 0xFB] []
      fun t => t.pc == 0x0002 && t.r == 0x02 && t.iff1 && t.iff2,
    oneStep ({ State.reset with f := 0x00 }) [0xED, 0x5E] []
      fun t => t.pc == 0x0002 && t.r == 0x02 && t.im == .im2,
    oneStep ({ State.reset with im := .im2, f := 0x00 }) [0xED, 0x6E] []
      fun t => t.pc == 0x0002 && t.r == 0x02 && t.im == .im0,
    oneStep ({ State.reset with f := 0x55 }) [0xED, 0x77] []
      fun t => t.pc == 0x0002 && t.r == 0x02 && t.events.contains .log ] id = true := by decide +kernel

/-- V1001 NMI accepted (R611); V1002 NMI with IFF1 = 0 (R611); V1004 INT IM1: accepts and runs one instruction (R625);
V1005 INT IM0 behaves as IM1 (R621); V1006 INT IM2 vector at I:0xFF (R622); V1007 INT IM2 with I = 0xFF reads
0xFFFF, 0x0000 (R622); V1008 INT blocked by IFF1 = 0 (R615); V1009 INT blocked by pendingEI (R615). -/
theorem test_vectors_interrupts_and_breakpoints_1 : List.all [
    oneStep ({ State.reset with pc := 0x1234, sp := 0x8000, iff1 := true, iff2 := true, activeNMI := true, f := 0x00 }) [0x00] []
      fun t => t.pc == 0x0066 && t.sp == 0x7FFE && t.r == 0x01 && t.memptr == 0x0066 && !t.iff1 && !t.activeNMI &&
        t.byteAt 0x7FFE == 0x34 && t.byteAt 0x7FFF == 0x12,
    oneStep ({ State.reset with pc := 0x1234, sp := 0x8000, activeNMI := true, f := 0x00 }) [0x00] []
      fun t => t.pc == 0x0066 && t.sp == 0x7FFE && t.r == 0x01 && t.memptr == 0x0066 && !t.activeNMI &&
        t.byteAt 0x7FFE == 0x34 && t.byteAt 0x7FFF == 0x12,
    oneStep ({ State.reset with pc := 0x1234, sp := 0x8000, iff1 := true, iff2 := true, im := .im1, activeINT := true, f := 0x00 }) [0x00] []
      fun t => t.pc == 0x0039 && t.sp == 0x7FFE && t.r == 0x02 && t.memptr == 0x0038 && !t.iff1 && !t.iff2 &&
        t.byteAt 0x7FFE == 0x34 && t.byteAt 0x7FFF == 0x12,
    oneStep ({ State.reset with pc := 0x1234, sp := 0x8000, iff1 := true, iff2 := true, im := .im0, activeINT := true, a := 0xFF, f := 0x00 }) [0x00] [(0x0038, 0x3C)]
      fun t => t.a == 0x00 && t.f == 0x50 && t.pc == 0x0039 && t.sp == 0x7FFE && t.r == 0x02 && t.memptr == 0x0038 &&
        !t.iff1 && !t.iff2 && t.lastFlagQ && t.byteAt 0x7FFE == 0x34 && t.byteAt 0x7FFF == 0x12,
    oneStep ({ State.reset with pc := 0x1234, sp := 0x8000, iff1 := true, iff2 := true, im := .im2, i := 0x80, activeINT := true, f := 0x00 }) [0x00] [(0x80FF, 0x00), (0x8100, 0x90)]
      fun t => t.pc == 0x9001 && t.sp == 0x7FFE && t.r == 0x02 && t.memptr == 0x9000 && !t.iff1 && !t.iff2 &&
        t.byteAt 0x7FFE == 0x34 && t.byteAt 0x7FFF == 0x12,
    oneStep ({ State.reset with pc := 0x1234, sp := 0x8000, iff1 := true, iff2 := true, im := .im2, i := 0xFF, activeINT := true, f := 0x00 }) [0x00] [(0x0000, 0x40), (0xFFFF, 0x00)]
      fun t => t.pc == 0x4001 && t.sp == 0x7FFE && t.r == 0x02 && t.memptr == 0x4000 && !t.iff1 && !t.iff2 &&
        t.byteAt 0x7FFE == 0x34 && t.byteAt 0x7FFF == 0x12,
    oneStep ({ State.reset with pc := 0x1234, sp := 0x8000, im := .im1, activeINT := true, f := 0x00 }) [0x00] []
      fun t => t.pc == 0x1235 && t.r == 0x01,
    oneStep ({ State.reset with pc := 0x1234, sp := 0x8000, iff1 := true, iff2 := true, pendingEI := true, im := .im1, activeINT := true, f := 0x00 }) [0x00] []
      fun t => t.pc == 0x1235 && t.r == 0x01 && !t.pendingEI ] id = true := by decide +kernel

/-- V1010 NMI and INT together: NMI wins (R645); V1013 Breakpoint at 0x0000 (R630). -/
theorem test_vectors_interrupts_and_breakpoints_2 : List.all [
    oneStep ({ State.reset with pc := 0x1234, sp := 0x8000, iff1 := true, iff2 := true, im := .im1, activeNMI := true, activeINT := true, f := 0x00 }) [0x00] []
      fun t => t.pc == 0x0066 && t.sp == 0x7FFE && t.r == 0x01 && t.memptr == 0x0066 && !t.iff1 && !t.activeNMI &&
        t.byteAt 0x7FFE == 0x34 && t.byteAt 0x7FFF == 0x12,
    oneStep ({ State.reset with f := 0x00, bp := [0] }) [0x00] []
      fun t => t.pc == 0x0001 && t.r == 0x01 && t.events.contains .notify ] id = true := by decide +kernel

/-! ## `withFetchWord` -/

/-- The result is a next state. -/
def isNext (r : Result) : Bool :=
  match r with
  | .next _ => true
  | .fault _ => false
  | .refused _ => false

theorem next_of_isNext {r : Result} (h : isNext r = true) : ∃ t, r = .next t := by
  cases r with
  | next t => exact ⟨t, rfl⟩
  | fault e => cases h
  | refused e => cases h

/-- From reset, with a word of four bytes stored: LD (IY+5),0xE7 runs (R213). -/
theorem test_withFetchWord_runs_the_word :
    (match step ((State.reset).withFetchWord 32 0xE70536FD) with
     | .next t => t.byteAt 0x0004 == 0xE7 && t.pc == 0x0004 && t.memptr == 0x0004
     | _ => false) = true := by decide +kernel

/-- The interrupt lines do not keep the word from running, and a wrap of PC does not either. -/
theorem test_withFetchWord_past_the_lines_and_the_wrap :
    (match step ({ State.reset with pc := 0xFFFF, iff1 := true, activeINT := true, activeNMI := true }.withFetchWord
        24 0x123421) with
     | .next t => mk16 t.h t.l == 0x1234 && t.pc == 0x0002
     | _ => false) = true := by decide +kernel

/-! ## Every statement's hypotheses are met -/

/-- A state with the bytes stored at PC. -/
def at0 (bytes : List Byte) : State := (State.reset).loadBytes 0x0000 bytes

theorem test_witness_ResetOperations :
    State.reset.lastPC = 0x0000 ∧ State.reset.bp = [] ∧ State.reset.mem = [] ∧ State.reset.portIn = [] ∧
      State.reset.portReads = 0 ∧ State.reset.events = [] := by decide

theorem test_witness_StepKeepsInvariant :
    (at0 [0x76]).Inv ∧ (∃ t, step (at0 [0x76]) = .next t) ∧ { at0 [0x76] with halted := true }.Inv ∧
      ∃ t, step { at0 [0x76] with halted := true } = .next t := by
  refine ⟨?_, next_of_isNext (by decide +kernel), ?_, next_of_isNext (by decide +kernel)⟩ <;>
    (unfold State.Inv; decide +kernel)

/-- An EI delay in effect. -/
theorem test_witness_StepKeepsInvariant_ei :
    { at0 [0x00] with pendingEI := true, iff2 := true }.Inv ∧
      ∃ t, step { at0 [0x00] with pendingEI := true, iff2 := true } = .next t := by
  refine ⟨?_, next_of_isNext (by decide +kernel)⟩
  unfold State.Inv
  decide +kernel

/-- Reading a list of cells that all hold one byte. -/
theorem read_map_const (v : Byte) (l : List Nat) (n : Nat) (h : n ∈ l) : Memory.read (l.map fun k => (k, v)) n = v := by
  induction l with
  | nil => cases h
  | cons k rest ih =>
    simp only [List.map_cons, Memory.read]
    split
    · rfl
    · next hk =>
      rcases List.mem_cons.1 h with rfl | h'
      · exact absurd rfl hk
      · exact ih h'

/-- A memory that lists a 0xDD at each of the first `n` addresses. -/
theorem endlessChain_map_range {n : Nat} (hn : 65536 ≤ n) : EndlessChain ((List.range n).map fun k => (k, 0xDD)) :=
  fun p => .inl (read_map_const _ _ _ (List.mem_range.2 (Nat.lt_of_lt_of_le p.isLt hn)))

/-- The reset state with another memory. -/
def resetWith (m : Memory) : State := { State.reset with mem := m }

theorem resetWith_atFetch_mem (m : Memory) : (resetWith m).atFetch.mem = m := by
  rw [State.atFetch_of_no_int rfl]
  rfl

theorem test_witness_EndlessChainHangs :
    ∃ s : State, s.activeNMI = false ∧ EndlessChain s.atFetch.mem :=
  ⟨resetWith ((List.range 65536).map fun k => (k, 0xDD)), rfl, by
    rw [resetWith_atFetch_mem]
    exact endlessChain_map_range (Nat.le_refl _)⟩

theorem test_witness_StepCompletesUnlessEndlessChain :
    (∃ t, step State.reset = .next t) ∧ (∃ t, step { State.reset with activeNMI := true } = .next t) ∧
      ¬ EndlessChain State.reset.atFetch.mem := by
  refine ⟨next_of_isNext (by decide +kernel), next_of_isNext (by decide +kernel), fun h => ?_⟩
  have h0 := h 0
  revert h0
  decide +kernel

theorem test_witness_DecodeOfEncode :
    (Instr.jrCc .c 0x80).wf = true ∧ (Instr.jrCc .c 0x80).continues = none ∧
      (Instr.bitXd .iy 0xFF 7 6).wf = true ∧ (Instr.bitXd .iy 0xFF 7 6).continues = none ∧
      (Instr.ddFallback .ix 0xFD).wf = true := by decide +kernel

theorem test_witness_EncodeOfDecode :
    decodeRow .ed [0xFF, 0x11] = .ok (.edNop 0xFF, [0x11]) ∧
      decodeRow (.index .ix) [0x36, 0x05, 0xE7] = .ok (.ldXdN .ix 0x05 0xE7, []) := ⟨rfl, rfl⟩

/-- Without and with an INT acceptance before the fetch. -/
theorem test_witness_StepRunsTheDecodedInstruction :
    (Instr.ldRN .b 0x05).wf = true ∧ (Instr.ldRN .b 0x05).continues = none ∧ (at0 [0x06, 0x05]).activeNMI = false ∧
      (at0 [0x06, 0x05]).atFetch.bytesFrom (at0 [0x06, 0x05]).atFetch.pc 2 = encode (.ldRN .b 0x05) ∧
      (let s : State := { (State.reset).loadBytes 0x0038 [0xDD, 0xCB, 0x01, 0x46] with iff1 := true, activeINT := true }
       s.activeNMI = false ∧ s.intAccepted = true ∧
         s.atFetch.bytesFrom s.atFetch.pc 4 = encode (.bitXd .ix 0x01 0 6)) := by decide +kernel

theorem test_witness_PrefixRowsAndFallback :
    inIndexSet (State.reset.byteAt State.reset.pc) = false ∧ inIndexSet ((at0 [0xDD]).byteAt 0x0000) = false := by
  decide +kernel

theorem test_witness_LastPcIsThePcTheStepBeganAt : ∃ t, step { State.reset with pc := 0x1234 } = .next t :=
  next_of_isNext (by decide +kernel)

theorem test_witness_NmiAcceptance :
    { State.reset with activeNMI := true, halted := true, pendingEI := true }.activeNMI = true := rfl

/-- Both clauses: INT acceptable, and held off by each of the three conditions. -/
theorem test_witness_IntAcceptance :
    (let s : State := { State.reset with activeINT := true, iff1 := true, im := .im2 }
     s.activeINT = true ∧ s.iff1 = true ∧ s.pendingEI = false) ∧
      (let s : State := { State.reset with activeINT := true, iff1 := true, pendingEI := true }
       ¬ (s.activeINT = true ∧ s.iff1 = true ∧ s.pendingEI = false)) ∧
      (let s : State := { State.reset with activeINT := true }
       ¬ (s.activeINT = true ∧ s.iff1 = true ∧ s.pendingEI = false)) ∧
      ¬ (State.reset.activeINT = true ∧ State.reset.iff1 = true ∧ State.reset.pendingEI = false) := by decide

/-- Both clauses: the first byte is EI, and it is a DD prefix before EI. -/
theorem test_witness_EiShadow :
    (at0 [0xFB]).activeNMI = false ∧ (∃ t, step (at0 [0xFB]) = .next t) ∧
      (at0 [0xFB]).atFetch.byteAt (at0 [0xFB]).atFetch.pc = 0xFB ∧
      (at0 [0xDD, 0xFB]).activeNMI = false ∧ (∃ t, step (at0 [0xDD, 0xFB]) = .next t) ∧
      (at0 [0xDD, 0xFB]).atFetch.byteAt (at0 [0xDD, 0xFB]).atFetch.pc ≠ 0xFB :=
  ⟨rfl, next_of_isNext (by decide +kernel), by decide +kernel, rfl, next_of_isNext (by decide +kernel),
    by decide +kernel⟩

/-- With INT not requested, and with INT requested but held off. -/
theorem test_witness_HaltedCoreRepeatsHalt :
    (let s : State := { at0 [0x76] with halted := true }
     s.halted = true ∧ s.byteAt s.pc = 0x76 ∧ s.activeNMI = false ∧
       ¬ (s.activeINT = true ∧ s.iff1 = true ∧ s.pendingEI = false)) ∧
      (let s : State := { at0 [0x76] with halted := true, activeINT := true, iff1 := true, pendingEI := true }
       s.halted = true ∧ s.byteAt s.pc = 0x76 ∧ s.activeNMI = false ∧
         ¬ (s.activeINT = true ∧ s.iff1 = true ∧ s.pendingEI = false)) := by decide +kernel

/-- A step whose first fetch meets a breakpoint, and one whose does not. -/
theorem test_witness_BreakpointsOnlyNotify :
    (∃ t, step { State.reset with bp := [0x0000] } = .next t) ∧
      (let s : State := { State.reset with bp := [0x0000] }
       s.activeNMI = false ∧ s.atFetch.pc.toNat ∈ s.bp) ∧
      (∃ t, step { State.reset with bp := [0x0001] } = .next t) ∧
      (let s : State := { State.reset with bp := [0x0001] }
       s.atFetch.pc.toNat ∉ s.bp) :=
  ⟨next_of_isNext (by decide +kernel), by decide +kernel, next_of_isNext (by decide +kernel), by decide +kernel⟩

/-- One instruction that is none of those that any clause leaves out. -/
theorem test_witness_WhichInstructionsReachWhichState :
    exec .nop State.reset = .next State.reset ∧ Instr.nop ≠ .ldIA ∧ Instr.nop ≠ .ldRefreshA ∧
      (∀ y, Instr.nop ≠ .im0 y ∧ Instr.nop ≠ .im1 y ∧ Instr.nop ≠ .im2 y) ∧ Instr.nop ≠ .exx ∧ Instr.nop ≠ .exAfAf ∧
      Instr.nop ≠ .ei ∧ Instr.nop ≠ .di ∧ Instr.nop ≠ .reti ∧ (∀ y, Instr.nop ≠ .retn y) ∧ Instr.nop ≠ .halt ∧
      ∀ x, Instr.nop.domain ≠ .index x := by
  refine ⟨rfl, ?_, ?_, fun y => ⟨?_, ?_, ?_⟩, ?_, ?_, ?_, ?_, ?_, fun y => ?_, ?_, fun x h => ?_⟩ <;>
    first | (intro h; cases h) | cases h

/-- F changed by SCF; and POP AF, which changes F. -/
theorem test_witness_FlagHistory :
    (∃ t, exec .scf { State.reset with f := 0x00 } = .next t ∧ t.f ≠ 0x00 ∧ Instr.scf ≠ .popQq .af ∧
      Instr.scf ≠ .exAfAf) ∧
      ∃ t, exec (.popQq .af) State.reset = .next t ∧ t.f ≠ State.reset.f :=
  ⟨⟨_, rfl, by decide +kernel, by decide, by decide⟩, ⟨_, rfl, by decide +kernel⟩⟩

/-- An instruction that stores, one that reads a port, and a step. -/
theorem test_witness_EventsTellMemoryAndPorts :
    (∃ t, exec (.ldHlN 0x55) State.reset = .next t) ∧ (∃ t, exec .ini { State.reset with portIn := [0x01] } = .next t) ∧
      ∃ t, step (at0 [0x36, 0x55]) = .next t :=
  ⟨⟨_, rfl⟩, ⟨_, rfl⟩, next_of_isNext (by decide +kernel)⟩

theorem test_witness_PopReadsTheWordAtSp :
    ∃ t, exec (.pushQq .af) State.reset = .next t ∧ ∃ u, exec (.popQq .bc) t = .next u := ⟨_, rfl, _, rfl⟩

/-- Each condition code holds under some flags and fails under others; B = 1 and B = 0. -/
theorem test_witness_Jumps :
    (∀ cc : Cond, (CondHolds cc 0x00 ∧ ¬ CondHolds cc 0xFF) ∨ (CondHolds cc 0xFF ∧ ¬ CondHolds cc 0x00)) ∧
      { State.reset with b := 0x01 }.b = 1 ∧ { State.reset with b := 0x00 }.b ≠ 1 := by
  refine ⟨fun cc => ?_, rfl, by decide⟩
  cases cc <;> (unfold CondHolds; decide)

theorem test_witness_CallsAndReturns :
    ∀ cc : Cond, (CondHolds cc 0x00 ∧ ¬ CondHolds cc 0xFF) ∨ (CondHolds cc 0xFF ∧ ¬ CondHolds cc 0x00) :=
  test_witness_Jumps.1

end Sys2Proof.Tests
end

section
/-!
PROOFS. The accessors as arithmetic: the effective address, the halves of an index register and the refresh counter, and
O20 put together from them and from the laws of Laws/Bits.lean and Laws/Ops.lean.
-/

namespace Sys2Proof.Machine

/-- The effective address wraps modulo 65536 (R151). -/
theorem State.ea_toNat (s : State) (x : IndexReg) (d : Byte) :
    ((s.ea x d).toNat : Int) = (((s.getX x).toNat : Int) + d.toInt) % 65536 := by
  rw [State.ea, add_sext16, BitVec.toNat_ofInt]
  exact Int.toNat_of_nonneg (Int.emod_nonneg _ (by decide))

/-! ## The halves of an index register (R166) -/

@[simp] theorem State.getX_setX_same (s : State) (x : IndexReg) (w : Word) : (s.setX x w).getX x = w := by
  rw [State.getX_setX, if_pos rfl]

@[simp] theorem State.getXh_setXh (s : State) (x : IndexReg) (v : Byte) : (s.setXh x v).getXh x = v := by
  simp [State.getXh, State.setXh]

@[simp] theorem State.getXl_setXh (s : State) (x : IndexReg) (v : Byte) : (s.setXh x v).getXl x = s.getXl x := by
  simp [State.getXl, State.setXh]

@[simp] theorem State.getXl_setXl (s : State) (x : IndexReg) (v : Byte) : (s.setXl x v).getXl x = v := by
  simp [State.getXl, State.setXl]

@[simp] theorem State.getXh_setXl (s : State) (x : IndexReg) (v : Byte) : (s.setXl x v).getXh x = s.getXh x := by
  simp [State.getXh, State.setXl]

/-! ## The refresh counter (R51) -/

theorem refreshAfter_toNat (r : Byte) (n : Nat) :
    (refreshAfter r n).toNat = r.toNat / 128 * 128 + (r.toNat + n) % 128 := by
  rw [refreshAfter, BitVec.toNat_ofNat]
  have := r.isLt
  omega

/-- Settles O20: each clause is the law of one accessor. -/
theorem addressesAndPairs : Obligations.AddressesAndPairs :=
  ⟨State.ea_toNat,
    fun s => ⟨mk16_toNat s.b s.c, mk16_toNat s.d s.e, mk16_toNat s.h s.l, mk16_toNat s.a s.f⟩,
    State.getRp_setRp,
    fun s x v => ⟨s.getXh_setXh x v, s.getXl_setXh x v, s.getXl_setXl x v, s.getXh_setXl x v⟩,
    fun s => by rw [State.incR_r_eq, refreshAfter_toNat],
    State.byteAt_memWrite⟩

end Sys2Proof.Machine
end

section
/-!
PROOFS. The snapshot, the breakpoint matrix and the two resets, register by register through the accessors of R61: O21 and
O1 put together from one lemma for each operation and each kind of register.
-/

namespace Sys2Proof.Machine

/-! ## The snapshot (R62, R63) -/

@[simp] theorem State.readByteReg_restore_capture (s t : State) (k : ByteReg) :
    (t.restore s.capture).readByteReg k = s.readByteReg k := by
  cases k <;> rfl

theorem State.readWordReg_restore_capture (s t : State) (k : WordReg) :
    (t.restore s.capture).readWordReg k = if k = .lastPC then t.lastPC else s.readWordReg k := by
  cases k <;> rfl

theorem State.readBitReg_restore_capture (s t : State) (k : BitReg) :
    (t.restore s.capture).readBitReg k = if k = .flagQ then false else s.readBitReg k := by
  cases k <;> rfl

/-- Restoring a state's own snapshot only clears flagQ, which the record does not hold (R62, R63). -/
theorem State.restore_capture_self (s : State) : s.restore s.capture = { s with flagQ := false } := rfl

/-! ## The breakpoint matrix, by address (R60, R631) -/

theorem State.bpAt_bpSet (s : State) (p q : Word) : (s.bpSet p).bpAt q = (s.bpAt q || decide (q = p)) := by
  simp only [State.bpAt, State.bpSet, bpInsert_contains, beq_eq_decide, BitVec.toNat_inj]

theorem State.bpAt_bpClear (s : State) (p q : Word) : (s.bpClear p).bpAt q = (s.bpAt q && decide (q ≠ p)) := by
  simp only [State.bpAt, State.bpClear, bpErase_contains, bne, beq_eq_decide, BitVec.toNat_inj, ne_eq, decide_not]

@[simp] theorem State.bpAt_bpResetAll (s : State) (q : Word) : s.bpResetAll.bpAt q = false := rfl

/-- Settles O21: each clause is the law of one operation; what `restore` leaves alone is not in the record. -/
theorem snapshotAndBreakpointOperations : Obligations.SnapshotAndBreakpointOperations :=
  ⟨fun s t => ⟨s.readByteReg_restore_capture t, s.readWordReg_restore_capture t, s.readBitReg_restore_capture t,
      rfl, rfl, rfl, rfl, rfl, rfl, rfl, rfl⟩,
    State.restore_capture_self,
    fun s p q => ⟨s.bpAt_bpSet p q, s.bpAt_bpClear p q, s.bpAt_bpResetAll q⟩⟩

/-! ## The two resets (R65, R700, R701) -/

theorem State.readByteReg_pinReset (s : State) (k : ByteReg) :
    s.pinReset.readByteReg k = if k = .i ∨ k = .r then 0x00 else s.readByteReg k := by
  cases k <;> rfl

theorem State.readByteReg_powerOnReset (s : State) (k : ByteReg) :
    s.powerOnReset.readByteReg k = if k = .i ∨ k = .r then 0x00 else 0xFF := by
  cases k <;> rfl

theorem State.readWordReg_pinReset (s : State) (k : WordReg) :
    s.pinReset.readWordReg k = if k = .pc then 0x0000 else s.readWordReg k := by
  cases k <;> rfl

theorem State.readWordReg_powerOnReset (s : State) (k : WordReg) :
    s.powerOnReset.readWordReg k = if k = .pc then 0x0000 else if k = .lastPC then s.lastPC else 0xFFFF := by
  cases k <;> rfl

@[simp] theorem State.readBitReg_pinReset (s : State) (k : BitReg) : s.pinReset.readBitReg k = false := by
  cases k <;> rfl

@[simp] theorem State.readBitReg_powerOnReset (s : State) (k : BitReg) : s.powerOnReset.readBitReg k = false := by
  cases k <;> rfl

/-- A new core: the fields that no reset writes are given, so power-on reset fixes the whole state (R65, R702; log 1, log 3). -/
theorem State.powerOnReset_eq_reset {s : State} (hlast : s.lastPC = 0x0000) (hbp : s.bp = []) (hmem : s.mem = [])
    (hport : s.portIn = []) (hreads : s.portReads = 0) (hevents : s.events = []) : s.powerOnReset = State.reset := by
  simp only [State.powerOnReset, State.pinReset, State.reset, hlast, hbp, hmem, hport, hreads, hevents]

/-- Settles O1: register by register for both resets, and the state of a new core. -/
theorem resetOperations : Obligations.ResetOperations := by
  refine ⟨fun s k => ⟨s.readByteReg_powerOnReset k, s.readByteReg_pinReset k⟩,
    fun s k => ⟨s.readWordReg_powerOnReset k, s.readWordReg_pinReset k⟩,
    fun s k => ⟨s.readBitReg_powerOnReset k, s.readBitReg_pinReset k⟩, fun s t ht => ?_,
    fun s => State.powerOnReset_eq_reset⟩
  simp only [List.mem_cons, List.not_mem_nil, or_false] at ht
  rcases ht with rfl | rfl
  · exact ⟨rfl, rfl, rfl, rfl, rfl, rfl, rfl, rfl⟩
  · exact ⟨rfl, rfl, rfl, rfl, rfl, rfl, rfl, rfl⟩

end Sys2Proof.Machine
end

section
/-!
PROOFS. What an instruction can reach of the state: nearly all of them only move data, and write F with flagQ or not at all
(`DataStep`, by a case for each group of instructions that write alike); the few others are listed
(`SystemInstr`). O17 and O18 follow from that one case analysis.
-/

namespace Sys2Proof.Machine

/-- Only data is moved from `s` to `t`: `t` is `s` but for the registers A to L, F, PC, SP, IX, IY, R and MEMPTR, flagQ, memory,
the port answers and the events. -/
def MovesData (s t : State) : Prop :=
  t = { s with
    a := t.a, f := t.f, b := t.b, c := t.c, d := t.d, e := t.e, h := t.h, l := t.l, pc := t.pc, sp := t.sp, ix := t.ix
    iy := t.iy, r := t.r, memptr := t.memptr, flagQ := t.flagQ, mem := t.mem, portIn := t.portIn
    portReads := t.portReads, events := t.events }

/-- What an instruction `i` that only moves data does from `s` to `t`: bit 7 of R stays, IX and IY too unless `i` is of the
DD/FD domain, and F is written with flagQ set (R55) or not at all. -/
structure DataStep (i : Instr) (s t : State) : Prop where
  data : MovesData s t
  refresh : t.r.getLsbD 7 = s.r.getLsbD 7
  index : (∀ x, i.domain ≠ .index x) → t.ix = s.ix ∧ t.iy = s.iy
  flags : t.flagQ = true ∨ t.f = s.f ∧ t.flagQ = s.flagQ

/-- The instructions that write more than `MovesData` allows or all 8 bits of R, or that write F and leave flagQ (D16). -/
inductive SystemInstr : Instr → Prop
  | ldIA : SystemInstr .ldIA
  | ldRefreshA : SystemInstr .ldRefreshA
  | im0 (y : BitVec 3) : SystemInstr (.im0 y)
  | im1 (y : BitVec 3) : SystemInstr (.im1 y)
  | im2 (y : BitVec 3) : SystemInstr (.im2 y)
  | exx : SystemInstr .exx
  | exAfAf : SystemInstr .exAfAf
  | popAf : SystemInstr (.popQq .af)
  | di : SystemInstr .di
  | ei : SystemInstr .ei
  | halt : SystemInstr .halt
  | retn (y : BitVec 3) : SystemInstr (.retn y)
  | reti : SystemInstr .reti

namespace DataStep
variable {i : Instr} {s t u : State} {x : IndexReg}

theorem keepsFlags (hd : MovesData s t) (hr : t.r = s.r) (hx : t.ix = s.ix) (hy : t.iy = s.iy) (hf : t.f = s.f)
    (hq : t.flagQ = s.flagQ) : DataStep i s t :=
  ⟨hd, by rw [hr], fun _ => ⟨hx, hy⟩, .inr ⟨hf, hq⟩⟩

theorem writesFlags (hd : MovesData s t) (hr : t.r = s.r) (hx : t.ix = s.ix) (hy : t.iy = s.iy) (hq : t.flagQ = true) :
    DataStep i s t :=
  ⟨hd, by rw [hr], fun _ => ⟨hx, hy⟩, .inl hq⟩

theorem refl : DataStep i s s := .keepsFlags rfl rfl rfl rfl rfl rfl

/-! What one more write does. -/

theorem setFlags {f : Byte} (h : DataStep i s t) : DataStep i s (t.setFlags f) :=
  ⟨by rw [h.data]; rfl, h.refresh, h.index, .inl rfl⟩

theorem alu {op : AluOp} {v : Byte} (h : DataStep i s t) : DataStep i s (t.alu op v) :=
  ⟨by rw [h.data]; rfl, h.refresh, h.index, .inl rfl⟩

theorem memWrite {p : Word} {v : Byte} (h : DataStep i s t) : DataStep i s (t.memWrite p v) :=
  ⟨by rw [h.data]; rfl, h.refresh, h.index, h.flags⟩

theorem setMemptr {w : Word} (h : DataStep i s t) : DataStep i s { t with memptr := w } :=
  ⟨by rw [h.data]; rfl, h.refresh, h.index, h.flags⟩

theorem setR8 {k : Reg8} {v : Byte} (h : DataStep i s t) : DataStep i s (t.setR8 k v) := by
  cases k <;> exact ⟨by rw [h.data]; rfl, h.refresh, h.index, h.flags⟩

theorem setRp {k : RegPair} {w : Word} (h : DataStep i s t) : DataStep i s (t.setRp k w) := by
  cases k <;> exact ⟨by rw [h.data]; rfl, h.refresh, h.index, h.flags⟩

theorem setX {y : IndexReg} {w : Word} (hi : i.domain = .index x) (h : DataStep i s t) : DataStep i s (t.setX y w) := by
  cases y <;> exact ⟨by rw [h.data]; rfl, h.refresh, fun hx => absurd hi (hx x), h.flags⟩

theorem rollBack {p : Word} (h : DataStep i s t) : DataStep i s (t.rollBack p) :=
  ⟨by rw [h.data]; rfl, h.refresh, h.index, h.flags⟩

theorem rollBackMemptr {p : Word} (h : DataStep i s t) : DataStep i s (t.rollBackMemptr p) :=
  ⟨by rw [h.data]; rfl, h.refresh, h.index, h.flags⟩

theorem ite {c : Bool} (ht : DataStep i s t) (hu : DataStep i s u) : DataStep i s (if c then t else u) := by
  cases c
  · exact hu
  · exact ht

/-! What the operations that instructions share do. -/

/-- The refresh increment of an M1 fetch counts in the low 7 bits of R (R51). -/
theorem m1 : DataStep i s s.m1 := by
  have hr : ∀ r : Byte, ((r &&& 0x80) ||| ((r + 1) &&& 0x7F)).getLsbD 7 = r.getLsbD 7 := by decide
  exact ⟨rfl, hr s.r, fun _ => ⟨rfl, rfl⟩, .inr ⟨rfl, rfl⟩⟩

theorem readHl : DataStep i s s.readHl.2 := .keepsFlags rfl rfl rfl rfl rfl rfl

theorem readXd {d : Byte} : DataStep i s (s.readXd x d).2 := .keepsFlags rfl rfl rfl rfl rfl rfl

theorem storeA {p : Word} : DataStep i s (s.storeA p) := .setMemptr (.memWrite .refl)

theorem loadWord {nn : Word} : DataStep i s (s.loadWord nn).2 := by
  rw [State.loadWord, State.memRead16_eq]
  exact .keepsFlags rfl rfl rfl rfl rfl rfl

theorem storeWord {nn w : Word} : DataStep i s (s.storeWord nn w) := .setMemptr (.memWrite (.memWrite .refl))

theorem push {w : Word} : DataStep i s (s.push w) := by
  rw [State.push_eq]
  exact .keepsFlags rfl rfl rfl rfl rfl rfl

theorem pop : DataStep i s s.pop.2 := by
  rw [State.pop_eq]
  exact .keepsFlags rfl rfl rfl rfl rfl rfl

theorem popPc : DataStep i s s.popPc := by
  rw [State.popPc_eq]
  exact .keepsFlags rfl rfl rfl rfl rfl rfl

theorem callTo {target : Word} : DataStep i s (s.callTo target) := by
  rw [State.callTo_eq, State.push_eq]
  exact .keepsFlags rfl rfl rfl rfl rfl rfl

theorem exchangeTop {w : Word} : DataStep i s (s.exchangeTop w).2 := by
  rw [State.exchangeTop_eq]
  exact .keepsFlags rfl rfl rfl rfl rfl rfl

theorem modifyR8 {k : Reg8} {g : Modify} (h : DataStep i s (g s (s.getR8 k)).2) : DataStep i s (s.modifyR8 k g) :=
  h.setR8

theorem modifyXh {g : Modify} (hi : i.domain = .index x) (h : DataStep i s (g s (s.getXh x)).2) :
    DataStep i s (s.modifyXh x g) :=
  h.setX hi

theorem modifyXl {g : Modify} (hi : i.domain = .index x) (h : DataStep i s (g s (s.getXl x)).2) :
    DataStep i s (s.modifyXl x g) :=
  h.setX hi

theorem modifyHl {g : Modify} (h : DataStep i s (g s.readHl.2 s.readHl.1).2) : DataStep i s (s.modifyHl g) :=
  h.memWrite

theorem modifyXd {d : Byte} {g : Modify} (h : DataStep i s (g (s.readXd x d).2 (s.readXd x d).1).2) :
    DataStep i s (s.modifyXd x d g) :=
  h.memWrite

/-- The form (X+d),r is the form (X+d) and a copy to r (R458). -/
theorem modifyXdR {d : Byte} {k : Reg8} {g : Modify} (h : DataStep i s (g (s.readXd x d).2 (s.readXd x d).1).2) :
    DataStep i s (s.modifyXdR x d k g) :=
  h.modifyXd.setR8

theorem blockTransfer {δ : Word} : DataStep i s (s.blockTransfer δ) := by
  rw [State.blockTransfer_eq]
  exact .writesFlags rfl rfl rfl rfl rfl

theorem blockCompare {δ : Word} : DataStep i s (s.blockCompare δ) := by
  rw [State.blockCompare_eq]
  exact .writesFlags rfl rfl rfl rfl rfl

theorem blockIn {δ : Word} : DataStep i s (s.blockIn δ) := by
  rw [State.blockIn_eq]
  exact .writesFlags rfl rfl rfl rfl rfl

theorem blockOut {δ : Word} : DataStep i s (s.blockOut δ) := by
  rw [State.blockOut_eq]
  exact .writesFlags rfl rfl rfl rfl rfl

theorem transferRepeat {δ : Word} : DataStep i s (s.transferRepeat δ) := .ite blockTransfer.rollBackMemptr blockTransfer

theorem compareRepeat {δ : Word} : DataStep i s (s.compareRepeat δ) := .ite blockCompare.rollBackMemptr blockCompare

theorem inRepeat {δ : Word} : DataStep i s (s.inRepeat δ) := .ite blockIn.rollBack blockIn

theorem outRepeat {δ : Word} : DataStep i s (s.outRepeat δ) := .ite blockOut.rollBack blockOut

end DataStep

/-- What an instruction that is not listed as `SystemInstr` does: one case for each group of instructions that write alike. -/
theorem exec_system_or_dataStep (i : Instr) (s : State) : SystemInstr i ∨ ∃ t, exec i s = .next t ∧ DataStep i s t := by
  cases i with
  | ldIA | ldRefreshA | im0 _ | im1 _ | im2 _ | exx | exAfAf | di | ei | halt | retn _ | reti =>
    exact .inl (by constructor)
  | popQq qq =>
    cases qq with
    | af => exact .inl .popAf
    | bc => exact .inr ⟨_, rfl, .setRp (k := .bc) .pop⟩
    | de => exact .inr ⟨_, rfl, .setRp (k := .de) .pop⟩
    | hl => exact .inr ⟨_, rfl, .setRp (k := .hl) .pop⟩
  -- F is kept
  | nop | ddFallback _ _ => exact .inr ⟨_, rfl, .refl⟩
  | edNop _ | ldABc | ldADe | ldAMem _ | ldSpHl | ldSpX _ | exDeHl | jp _ | jpHl | jpX _ | jr _ | inAN _ | outNA _ | outCR _
  | outC0 => exact .inr ⟨_, rfl, .keepsFlags rfl rfl rfl rfl rfl rfl⟩
  | prefixCB | prefixED | prefixDD | prefixFD => exact .inr ⟨_, rfl, .m1⟩
  | prefixXCB _ _ => exact .inr ⟨_, rfl, .setMemptr (.keepsFlags rfl rfl rfl rfl rfl rfl)⟩
  | ldBcA | ldDeA | ldMemA _ => exact .inr ⟨_, rfl, .storeA⟩
  | ldHlN _ | ldHlR _ => exact .inr ⟨_, rfl, .memWrite .refl⟩
  | ldXdN _ _ _ | ldXdR _ _ _ => exact .inr ⟨_, rfl, .memWrite (.setMemptr .refl)⟩
  | ldMemHl _ | ldMemRp _ _ | ldMemX _ _ => exact .inr ⟨_, rfl, .storeWord⟩
  | pushQq _ | pushX _ => exact .inr ⟨_, rfl, .push⟩
  | call _ | rst _ => exact .inr ⟨_, rfl, .callTo⟩
  | ret => exact .inr ⟨_, rfl, .popPc⟩
  | ldRR _ _ | ldRN _ _ | ldRXh _ _ | ldRXl _ _ => exact .inr ⟨_, rfl, .setR8 .refl⟩
  | ldRHl _ => exact .inr ⟨_, rfl, .setR8 .readHl⟩
  | ldRXd _ _ _ => exact .inr ⟨_, rfl, .setR8 .readXd⟩
  | ldRpNn _ _ | incRp _ | decRp _ => exact .inr ⟨_, rfl, .setRp .refl⟩
  | ldRpMem _ _ => exact .inr ⟨_, rfl, .setRp .loadWord⟩
  | ldHlMem _ => exact .inr ⟨_, rfl, .setRp (k := .hl) .loadWord⟩
  | exSpHl => exact .inr ⟨_, rfl, .setRp (k := .hl) .exchangeTop⟩
  | ldXNn _ _ | incX _ | decX _ | ldXhN _ _ | ldXlN _ _ | ldXhS _ _ | ldXlS _ _ =>
    exact .inr ⟨_, rfl, .setX rfl .refl⟩
  | ldXMem _ _ => exact .inr ⟨_, rfl, .setX rfl .loadWord⟩
  | popX _ => exact .inr ⟨_, rfl, .setX rfl .pop⟩
  | exSpX _ => exact .inr ⟨_, rfl, .setX rfl .exchangeTop⟩
  | resR _ _ | setR _ _ => exact .inr ⟨_, rfl, .modifyR8 .refl⟩
  | resHl _ | setHl _ => exact .inr ⟨_, rfl, .modifyHl .readHl⟩
  | resXd _ _ _ | setXd _ _ _ => exact .inr ⟨_, rfl, .modifyXd .readXd⟩
  | resXdR _ _ _ _ | setXdR _ _ _ _ => exact .inr ⟨_, rfl, .modifyXdR .readXd⟩
  | jpCc _ _ | jrCc _ _ | djnz _ =>
    exact .inr ⟨_, rfl, .ite (.keepsFlags rfl rfl rfl rfl rfl rfl) (.keepsFlags rfl rfl rfl rfl rfl rfl)⟩
  | callCc _ _ => exact .inr ⟨_, rfl, .ite .callTo (.setMemptr .refl)⟩
  | retCc _ => exact .inr ⟨_, rfl, .ite .popPc .refl⟩
  -- F is written with flagQ
  | rlca | rrca | rla | rra | daa | cpl | neg _ | scf | ccf | ldAI | ldARefresh | rld | rrd | inC | addHlRp _ | adcHlRp _
  | sbcHlRp _ => exact .inr ⟨_, rfl, .writesFlags rfl rfl rfl rfl rfl⟩
  | bitR _ _ => exact .inr ⟨_, rfl, .setFlags .refl⟩
  | bitHl _ => exact .inr ⟨_, rfl, .setFlags .readHl⟩
  | bitXd _ _ _ _ => exact .inr ⟨_, rfl, .setFlags .readXd⟩
  | addR _ | adcR _ | subR _ | sbcR _ | andR _ | xorR _ | orR _ | cpR _ | addN _ | adcN _ | subN _ | sbcN _ | andN _ | xorN _
  | orN _ | cpN _ | addXh _ | adcXh _ | subXh _ | sbcXh _ | andXh _ | xorXh _ | orXh _ | cpXh _ | addXl _ | adcXl _ | subXl _
  | sbcXl _ | andXl _ | xorXl _ | orXl _ | cpXl _ => exact .inr ⟨_, rfl, .alu .refl⟩
  | addHl | adcHl | subHl | sbcHl | andHl | xorHl | orHl | cpHl => exact .inr ⟨_, rfl, .alu .readHl⟩
  | addXd _ _ | adcXd _ _ | subXd _ _ | sbcXd _ _ | andXd _ _ | xorXd _ _ | orXd _ _ | cpXd _ _ =>
    exact .inr ⟨_, rfl, .alu .readXd⟩
  | inRC _ => exact .inr ⟨_, rfl, .setR8 (.writesFlags rfl rfl rfl rfl rfl)⟩
  | addXRp _ _ => exact .inr ⟨_, rfl, .setFlags (.setX rfl (.setMemptr .refl))⟩
  | incR _ | decR _ | rlcR _ | rrcR _ | rlR _ | rrR _ | slaR _ | sraR _ | sllR _ | srlR _ =>
    exact .inr ⟨_, rfl, .modifyR8 (.setFlags .refl)⟩
  | incXh _ | decXh _ => exact .inr ⟨_, rfl, .modifyXh rfl (.setFlags .refl)⟩
  | incXl _ | decXl _ => exact .inr ⟨_, rfl, .modifyXl rfl (.setFlags .refl)⟩
  | incHl | decHl | rlcHl | rrcHl | rlHl | rrHl | slaHl | sraHl | sllHl | srlHl =>
    exact .inr ⟨_, rfl, .modifyHl (.setFlags .readHl)⟩
  | incXd _ _ | decXd _ _ | rlcXd _ _ | rrcXd _ _ | rlXd _ _ | rrXd _ _ | slaXd _ _ | sraXd _ _ | sllXd _ _ | srlXd _ _ =>
    exact .inr ⟨_, rfl, .modifyXd (.setFlags .readXd)⟩
  | rlcXdR _ _ _ | rrcXdR _ _ _ | rlXdR _ _ _ | rrXdR _ _ _ | slaXdR _ _ _ | sraXdR _ _ _ | sllXdR _ _ _ | srlXdR _ _ _ =>
    exact .inr ⟨_, rfl, .modifyXdR (.setFlags .readXd)⟩
  | ldi | ldd => exact .inr ⟨_, rfl, .blockTransfer⟩
  | cpi | cpd => exact .inr ⟨_, rfl, .blockCompare⟩
  | ini | ind => exact .inr ⟨_, rfl, .blockIn⟩
  | outi | outd => exact .inr ⟨_, rfl, .blockOut⟩
  | ldir | lddr => exact .inr ⟨_, rfl, .transferRepeat⟩
  | cpir | cpdr => exact .inr ⟨_, rfl, .compareRepeat⟩
  | inir | indr => exact .inr ⟨_, rfl, .inRepeat⟩
  | otir | otdr => exact .inr ⟨_, rfl, .outRepeat⟩

/-- An instruction that answers `t` is listed as `SystemInstr`, or moves data from `s` to `t`. -/
theorem system_or_dataStep_of_exec {i : Instr} {s t : State} (h : exec i s = .next t) : SystemInstr i ∨ DataStep i s t := by
  rcases exec_system_or_dataStep i s with hi | ⟨u, hu, hd⟩
  · exact .inl hi
  · obtain rfl : u = t := Host.Outcome.next.inj (hu.symm.trans h)
    exact .inr hd

/-! ## The two statements -/

/-- Settles O17: an instruction that only moves data keeps every field named but IX and IY, and each of the others writes only
fields that its own clauses leave out. -/
theorem whichInstructionsReachWhichState : Obligations.WhichInstructionsReachWhichState := by
  intro i s t h
  rcases system_or_dataStep_of_exec h with hi | ⟨hd, hr, hx, -⟩
  · cases hi with
    | retn _ | reti =>
      obtain rfl : s.returnFromInterrupt = t := Host.Outcome.next.inj h
      simp [State.returnFromInterrupt_eq]
    | _ =>
      cases h
      simp
  · have keeps {α : Type} (field : State → α) := congrArg field hd
    exact ⟨fun _ => keeps State.i, fun _ => hr, fun _ => keeps State.im,
      fun _ => ⟨keeps State.b', keeps State.c', keeps State.d', keeps State.e', keeps State.h', keeps State.l'⟩,
      fun _ => ⟨keeps State.a', keeps State.f'⟩, fun _ _ => keeps State.iff2, fun _ _ _ _ => keeps State.iff1,
      fun _ => keeps State.pendingEI, fun _ => keeps State.halted, hx, keeps State.activeNMI, keeps State.activeINT,
      keeps State.lastFlagQ, keeps State.lastPC, keeps State.bp⟩

/-- POP AF and EX AF,AF' leave flagQ (D16). -/
theorem flagQ_of_popAf_or_exAfAf {i : Instr} {s t : State} (h : exec i s = .next t)
    (hi : i = .popQq .af ∨ i = .exAfAf) : t.flagQ = s.flagQ := by
  rcases hi with rfl | rfl
  · cases h
    rfl
  · cases h
    rfl

/-- Settles O18: of the instructions that do more than move data, only POP AF and EX AF,AF' write F. -/
theorem flagHistory : Obligations.FlagHistory := by
  intro i s t h
  have hq := flagQ_of_popAf_or_exAfAf h
  rcases system_or_dataStep_of_exec h with hi | ⟨-, -, -, hset | ⟨hf, hkept⟩⟩
  · cases hi with
    | popAf => exact ⟨.inr (hq (.inl rfl)), fun _ hne _ => absurd rfl hne, hq⟩
    | exAfAf => exact ⟨.inr (hq (.inr rfl)), fun _ _ hne => absurd rfl hne, hq⟩
    | _ =>
      cases h
      exact ⟨.inr rfl, fun hne => absurd rfl hne, hq⟩
  · exact ⟨.inl hset, fun _ _ _ => hset, hq⟩
  · exact ⟨.inr hkept, fun hne => absurd hf hne, hq⟩

end Sys2Proof.Machine
end

section
/-!
PROOFS. The event list accounts for memory and for the port answers (R106): a relation between two states that every write of
the model keeps (`Accounts`), one case analysis of the instructions over it, the rows and phases of a step, and O19.
-/

namespace Sys2Proof.Machine

/-! ## Replaying lists of events one after the other -/

theorem replayWrites_append (es es' : List Event) (m : Memory) :
    replayWrites (es ++ es') m = replayWrites es' (replayWrites es m) := by
  induction es generalizing m with
  | nil => rfl
  | cons ev rest ih => cases ev <;> exact ih _

theorem portReadCount_append (es es' : List Event) :
    portReadCount (es ++ es') = portReadCount es + portReadCount es' := by
  simp only [portReadCount, List.filter_append, List.length_append]

/-- From `s` to `t` events are appended, their stores made in memory, and as many port answers used up as they list reads. -/
def Accounts (s t : State) : Prop :=
  ∃ evs, t.events = s.events ++ evs ∧ t.mem = replayWrites evs s.mem ∧
    t.portReads = s.portReads + portReadCount evs ∧ t.portIn = s.portIn.drop (portReadCount evs)

/-- The fields that `Accounts` speaks of. -/
def State.ledger (s : State) : List Event × Memory × Nat × List Byte := (s.events, s.mem, s.portReads, s.portIn)

@[simp] theorem State.ledger_setR8 (s : State) (k : Reg8) (v : Byte) : (s.setR8 k v).ledger = s.ledger := by
  cases k <;> rfl

@[simp] theorem State.ledger_setRp (s : State) (k : RegPair) (w : Word) : (s.setRp k w).ledger = s.ledger := by
  cases k <;> rfl

@[simp] theorem State.ledger_setQq (s : State) (k : StackPair) (w : Word) : (s.setQq k w).ledger = s.ledger := by
  cases k <;> rfl

@[simp] theorem State.ledger_setX (s : State) (x : IndexReg) (w : Word) : (s.setX x w).ledger = s.ledger := by
  cases x <;> rfl

namespace Accounts
variable {s t u : State}

theorem refl : Accounts s s := ⟨[], (List.append_nil _).symm, rfl, rfl, rfl⟩

theorem trans (h : Accounts s t) (h' : Accounts t u) : Accounts s u := by
  obtain ⟨es, he, hm, hr, hp⟩ := h
  obtain ⟨es', he', hm', hr', hp'⟩ := h'
  refine ⟨es ++ es', ?_, ?_, ?_, ?_⟩
  · rw [he', he, List.append_assoc]
  · rw [hm', hm, replayWrites_append]
  · rw [hr', hr, portReadCount_append, Nat.add_assoc]
  · rw [hp', hp, List.drop_drop, portReadCount_append]

/-- Whatever leaves the four fields alone keeps the account. -/
theorem keeps (h : Accounts s t) (hu : u.ledger = t.ledger) : Accounts s u := by
  simp only [State.ledger, Prod.mk.injEq] at hu
  obtain ⟨he, hm, hr, hp⟩ := hu
  rw [Accounts, he, hm, hr, hp]
  exact h

theorem ofKept (ht : t.ledger = s.ledger) : Accounts s t := refl.keeps ht

theorem ite {c : Bool} (ht : Accounts s t) (hu : Accounts s u) : Accounts s (if c then t else u) := by
  cases c
  · exact hu
  · exact ht

/-! What one more write does. -/

theorem memWrite {p : Word} {v : Byte} (h : Accounts s t) : Accounts s (t.memWrite p v) :=
  h.trans ⟨[.memWrite p v], rfl, rfl, rfl, rfl⟩

theorem setFlags {f : Byte} (h : Accounts s t) : Accounts s (t.setFlags f) := h.keeps rfl

theorem setMemptr {w : Word} (h : Accounts s t) : Accounts s { t with memptr := w } := h.keeps rfl

theorem enter {w : Word} (h : Accounts s t) : Accounts s (t.enter w) := h.keeps rfl

theorem alu {op : AluOp} {v : Byte} (h : Accounts s t) : Accounts s (t.alu op v) := h.keeps rfl

theorem setR8 {k : Reg8} {v : Byte} (h : Accounts s t) : Accounts s (t.setR8 k v) := h.keeps (t.ledger_setR8 k v)

theorem setRp {k : RegPair} {w : Word} (h : Accounts s t) : Accounts s (t.setRp k w) := h.keeps (t.ledger_setRp k w)

theorem setQq {k : StackPair} {w : Word} (h : Accounts s t) : Accounts s (t.setQq k w) := h.keeps (t.ledger_setQq k w)

theorem setX {x : IndexReg} {w : Word} (h : Accounts s t) : Accounts s (t.setX x w) := h.keeps (t.ledger_setX x w)

theorem rollBack {p : Word} (h : Accounts s t) : Accounts s (t.rollBack p) :=
  h.trans ⟨[.contend p 5], rfl, rfl, rfl, rfl⟩

theorem rollBackMemptr {p : Word} (h : Accounts s t) : Accounts s (t.rollBackMemptr p) :=
  h.trans ⟨[.contend p 5], rfl, rfl, rfl, rfl⟩

/-! What the operations that instructions share do: each lists its events in its equation. -/

theorem m1 : Accounts s s.m1 := ⟨[.fetch s.pc], rfl, rfl, rfl, rfl⟩

theorem fetchOperand : Accounts s s.fetchOperand := ⟨[.memRead s.pc], rfl, rfl, rfl, rfl⟩

theorem readHl : Accounts s s.readHl.2 := ⟨[.memRead s.hl], rfl, rfl, rfl, rfl⟩

theorem readXd {x : IndexReg} {d : Byte} : Accounts s (s.readXd x d).2 := ⟨[.memRead (s.ea x d)], rfl, rfl, rfl, rfl⟩

theorem loadA {p : Word} : Accounts s (s.loadA p) := ⟨[.memRead p], rfl, rfl, rfl, rfl⟩

theorem storeA {p : Word} : Accounts s (s.storeA p) := .setMemptr (.memWrite .refl)

theorem memRead16 {p : Word} : Accounts s (s.memRead16 p).2 := by
  rw [State.memRead16_eq]
  exact ⟨_, rfl, rfl, rfl, rfl⟩

theorem loadWord {nn : Word} : Accounts s (s.loadWord nn).2 := .setMemptr .memRead16

theorem storeWord {nn w : Word} : Accounts s (s.storeWord nn w) := .setMemptr (.memWrite (.memWrite .refl))

theorem push {w : Word} : Accounts s (s.push w) := by
  rw [State.push_eq]
  exact ⟨_, rfl, rfl, rfl, rfl⟩

theorem pop : Accounts s s.pop.2 := by
  rw [State.pop_eq]
  exact ⟨_, rfl, rfl, rfl, rfl⟩

theorem popPc : Accounts s s.popPc := .enter .pop

theorem returnFromInterrupt : Accounts s s.returnFromInterrupt := by
  rw [State.returnFromInterrupt_eq]
  exact ⟨_, rfl, rfl, rfl, rfl⟩

theorem callTo {target : Word} : Accounts s (s.callTo target) := .enter .push

theorem exchangeTop {w : Word} : Accounts s (s.exchangeTop w).2 := by
  rw [State.exchangeTop_eq]
  exact ⟨_, rfl, rfl, rfl, rfl⟩

theorem portRead {p : Word} : Accounts s (s.portRead p).2 :=
  ⟨[.portRead p (s.portAnswer p)], rfl, rfl, rfl, List.drop_one.symm⟩

theorem inputC : Accounts s s.inputC.2 := portRead.keeps rfl

theorem outputC {v : Byte} : Accounts s (s.outputC v) := ⟨[.portWrite s.bc v], rfl, rfl, rfl, rfl⟩

theorem modifyR8 {k : Reg8} {g : Modify} (h : Accounts s (g s (s.getR8 k)).2) : Accounts s (s.modifyR8 k g) := h.setR8

theorem modifyXh {x : IndexReg} {g : Modify} (h : Accounts s (g s (s.getXh x)).2) : Accounts s (s.modifyXh x g) := h.setX

theorem modifyXl {x : IndexReg} {g : Modify} (h : Accounts s (g s (s.getXl x)).2) : Accounts s (s.modifyXl x g) := h.setX

theorem modifyHl {g : Modify} (h : Accounts s (g s.readHl.2 s.readHl.1).2) : Accounts s (s.modifyHl g) := h.memWrite

theorem modifyXd {x : IndexReg} {d : Byte} {g : Modify} (h : Accounts s (g (s.readXd x d).2 (s.readXd x d).1).2) :
    Accounts s (s.modifyXd x d g) :=
  h.memWrite

/-- The form (X+d),r is the form (X+d) and a copy to r (R458). -/
theorem modifyXdR {x : IndexReg} {d : Byte} {k : Reg8} {g : Modify}
    (h : Accounts s (g (s.readXd x d).2 (s.readXd x d).1).2) : Accounts s (s.modifyXdR x d k g) :=
  h.modifyXd.setR8

/-- RLD and RRD read (HL) and write it back. -/
theorem rotateDigit {g : Byte → Byte → Byte × Byte} : Accounts s (s.rotateDigit g) :=
  (memWrite readHl).keeps rfl

theorem blockTransfer {δ : Word} : Accounts s (s.blockTransfer δ) := by
  rw [State.blockTransfer_eq]
  exact ⟨_, rfl, rfl, rfl, rfl⟩

theorem blockCompare {δ : Word} : Accounts s (s.blockCompare δ) := by
  rw [State.blockCompare_eq]
  exact ⟨_, rfl, rfl, rfl, rfl⟩

theorem blockIn {δ : Word} : Accounts s (s.blockIn δ) := by
  rw [State.blockIn_eq]
  exact ⟨_, rfl, rfl, rfl, List.drop_one.symm⟩

theorem blockOut {δ : Word} : Accounts s (s.blockOut δ) := by
  rw [State.blockOut_eq]
  exact ⟨_, rfl, rfl, rfl, rfl⟩

theorem transferRepeat {δ : Word} : Accounts s (s.transferRepeat δ) := .ite blockTransfer.rollBackMemptr blockTransfer

theorem compareRepeat {δ : Word} : Accounts s (s.compareRepeat δ) := .ite blockCompare.rollBackMemptr blockCompare

theorem inRepeat {δ : Word} : Accounts s (s.inRepeat δ) := .ite blockIn.rollBack blockIn

theorem outRepeat {δ : Word} : Accounts s (s.outRepeat δ) := .ite blockOut.rollBack blockOut

end Accounts

/-! ## Every instruction: one case for each group that reads and writes alike -/

theorem exec_accounts (i : Instr) (s : State) : ∃ t, exec i s = .next t ∧ Accounts s t := by
  cases i with
  -- registers only
  | nop | ddFallback _ _ | ldSpHl | ldSpX _ | exDeHl | exAfAf | exx | ldIA | ldRefreshA | ldAI | ldARefresh | im0 _ | im1 _
  | im2 _ | di | ei | halt | jp _ | jpHl | jpX _ | jr _ | rlca | rrca | rla | rra | daa | cpl | neg _ | scf | ccf
  | addHlRp _ | adcHlRp _ | sbcHlRp _ => exact ⟨_, rfl, .ofKept rfl⟩
  | jpCc _ _ | jrCc _ _ | djnz _ => exact ⟨_, rfl, .ite (.ofKept rfl) (.ofKept rfl)⟩
  | ldRR _ _ | ldRN _ _ | ldRXh _ _ | ldRXl _ _ => exact ⟨_, rfl, .setR8 .refl⟩
  | ldRpNn _ _ | incRp _ | decRp _ => exact ⟨_, rfl, .setRp .refl⟩
  | ldXNn _ _ | incX _ | decX _ | ldXhN _ _ | ldXlN _ _ | ldXhS _ _ | ldXlS _ _ => exact ⟨_, rfl, .setX .refl⟩
  | addXRp _ _ => exact ⟨_, rfl, .setFlags (.setX (.setMemptr .refl))⟩
  | bitR _ _ => exact ⟨_, rfl, .setFlags .refl⟩
  | addR _ | adcR _ | subR _ | sbcR _ | andR _ | xorR _ | orR _ | cpR _ | addN _ | adcN _ | subN _ | sbcN _ | andN _ | xorN _
  | orN _ | cpN _ | addXh _ | adcXh _ | subXh _ | sbcXh _ | andXh _ | xorXh _ | orXh _ | cpXh _ | addXl _ | adcXl _ | subXl _
  | sbcXl _ | andXl _ | xorXl _ | orXl _ | cpXl _ => exact ⟨_, rfl, .alu .refl⟩
  | incR _ | decR _ | rlcR _ | rrcR _ | rlR _ | rrR _ | slaR _ | sraR _ | sllR _ | srlR _ =>
    exact ⟨_, rfl, .modifyR8 (.setFlags .refl)⟩
  | resR _ _ | setR _ _ => exact ⟨_, rfl, .modifyR8 .refl⟩
  | incXh _ | decXh _ => exact ⟨_, rfl, .modifyXh (.setFlags .refl)⟩
  | incXl _ | decXl _ => exact ⟨_, rfl, .modifyXl (.setFlags .refl)⟩
  -- memory is read
  | prefixCB | prefixED | prefixDD | prefixFD => exact ⟨_, rfl, .m1⟩
  | prefixXCB _ _ => exact ⟨_, rfl, .setMemptr .fetchOperand⟩
  | ldABc | ldADe | ldAMem _ => exact ⟨_, rfl, .loadA⟩
  | ldRHl _ => exact ⟨_, rfl, .setR8 .readHl⟩
  | ldRXd _ _ _ => exact ⟨_, rfl, .setR8 .readXd⟩
  | ldHlMem _ => exact ⟨_, rfl, .setRp (k := .hl) .loadWord⟩
  | ldRpMem _ _ => exact ⟨_, rfl, .setRp .loadWord⟩
  | ldXMem _ _ => exact ⟨_, rfl, .setX .loadWord⟩
  | popQq _ => exact ⟨_, rfl, .setQq .pop⟩
  | popX _ => exact ⟨_, rfl, .setX .pop⟩
  | ret => exact ⟨_, rfl, .popPc⟩
  | retCc _ => exact ⟨_, rfl, .ite .popPc .refl⟩
  | retn _ | reti => exact ⟨_, rfl, .returnFromInterrupt⟩
  | bitHl _ => exact ⟨_, rfl, .setFlags .readHl⟩
  | bitXd _ _ _ _ => exact ⟨_, rfl, .setFlags .readXd⟩
  | addHl | adcHl | subHl | sbcHl | andHl | xorHl | orHl | cpHl => exact ⟨_, rfl, .alu .readHl⟩
  | addXd _ _ | adcXd _ _ | subXd _ _ | sbcXd _ _ | andXd _ _ | xorXd _ _ | orXd _ _ | cpXd _ _ =>
    exact ⟨_, rfl, .alu .readXd⟩
  | cpi | cpd => exact ⟨_, rfl, .blockCompare⟩
  | cpir | cpdr => exact ⟨_, rfl, .compareRepeat⟩
  -- memory is written
  | ldBcA | ldDeA | ldMemA _ => exact ⟨_, rfl, .storeA⟩
  | ldHlN _ | ldHlR _ => exact ⟨_, rfl, .memWrite .refl⟩
  | ldXdN _ _ _ | ldXdR _ _ _ => exact ⟨_, rfl, .memWrite (.setMemptr .refl)⟩
  | ldMemHl _ | ldMemRp _ _ | ldMemX _ _ => exact ⟨_, rfl, .storeWord⟩
  | pushQq _ | pushX _ => exact ⟨_, rfl, .push⟩
  | call _ | rst _ => exact ⟨_, rfl, .callTo⟩
  | callCc _ _ => exact ⟨_, rfl, .ite .callTo (.setMemptr .refl)⟩
  | exSpHl => exact ⟨_, rfl, .setRp (k := .hl) .exchangeTop⟩
  | exSpX _ => exact ⟨_, rfl, .setX .exchangeTop⟩
  | incHl | decHl | rlcHl | rrcHl | rlHl | rrHl | slaHl | sraHl | sllHl | srlHl =>
    exact ⟨_, rfl, .modifyHl (.setFlags .readHl)⟩
  | incXd _ _ | decXd _ _ | rlcXd _ _ | rrcXd _ _ | rlXd _ _ | rrXd _ _ | slaXd _ _ | sraXd _ _ | sllXd _ _ | srlXd _ _ =>
    exact ⟨_, rfl, .modifyXd (.setFlags .readXd)⟩
  | rlcXdR _ _ _ | rrcXdR _ _ _ | rlXdR _ _ _ | rrXdR _ _ _ | slaXdR _ _ _ | sraXdR _ _ _ | sllXdR _ _ _ | srlXdR _ _ _ =>
    exact ⟨_, rfl, .modifyXdR (.setFlags .readXd)⟩
  | resHl _ | setHl _ => exact ⟨_, rfl, .modifyHl .readHl⟩
  | resXd _ _ _ | setXd _ _ _ => exact ⟨_, rfl, .modifyXd .readXd⟩
  | resXdR _ _ _ _ | setXdR _ _ _ _ => exact ⟨_, rfl, .modifyXdR .readXd⟩
  | rld | rrd => exact ⟨_, rfl, .rotateDigit⟩
  | ldi | ldd => exact ⟨_, rfl, .blockTransfer⟩
  | ldir | lddr => exact ⟨_, rfl, .transferRepeat⟩
  -- ports and the log
  | inAN _ => exact ⟨_, rfl, .trans (.setMemptr .refl) (.keeps .portRead rfl)⟩
  | inRC _ => exact ⟨_, rfl, .setR8 .inputC⟩
  | inC => exact ⟨_, rfl, .inputC⟩
  | outNA _ => exact ⟨_, rfl, _, rfl, rfl, rfl, rfl⟩
  | outCR _ | outC0 => exact ⟨_, rfl, .outputC⟩
  | ini | ind => exact ⟨_, rfl, .blockIn⟩
  | inir | indr => exact ⟨_, rfl, .inRepeat⟩
  | outi | outd => exact ⟨_, rfl, .blockOut⟩
  | otir | otdr => exact ⟨_, rfl, .outRepeat⟩
  | edNop _ => exact ⟨_, rfl, [.log], rfl, rfl, rfl, rfl⟩

/-! ## The rows and the phases of a step -/

/-- A row that answers `t` has read its operands and run its instruction and, unless that row ends the instruction, the
continuation. -/
theorem runRow_next_cases {ex : Instr → State → Result} {dom : Domain} {op : Byte} {s t : State}
    {k : Domain → Byte → State → Result} (h : runRow ex dom op s k = .next t) :
    ∃ i u, ex i (s.fetchOperands i.operandCount) = .next u ∧ (t = u ∨ ∃ dom' b, k dom' b u = .next t) := by
  simp only [runRow] at h
  split at h
  · next u hu =>
    refine ⟨_, u, hu, ?_⟩
    split at h
    · exact .inl (Host.Outcome.next.inj h).symm
    · exact .inr ⟨_, _, h⟩
  · cases h
  · cases h

namespace Accounts
variable {s t u : State}

theorem of_exec {i : Instr} (h : exec i s = .next t) : Accounts s t := by
  obtain ⟨u, hu, hs⟩ := exec_accounts i s
  obtain rfl : u = t := Host.Outcome.next.inj (hu.symm.trans h)
  exact hs

theorem fetchOperands {n : Nat} : Accounts s (s.fetchOperands n) := by
  induction n generalizing s with
  | zero => exact refl
  | succ n ih => exact fetchOperand.trans ih

theorem of_runRow {dom : Domain} {op : Byte} {k : Domain → Byte → State → Result} (h : runRow exec dom op s k = .next t)
    (hk : ∀ dom' b u, k dom' b u = .next t → Accounts u t) : Accounts s t := by
  obtain ⟨i, u, hu, rfl | ⟨dom', b, ht⟩⟩ := runRow_next_cases h
  · exact fetchOperands.trans (of_exec hu)
  · exact (fetchOperands.trans (of_exec hu)).trans (hk dom' b u ht)

/-- A row after which the step goes no further: the last of a chain. -/
theorem of_lastRow {dom : Domain} {op : Byte} (h : runRow exec dom op s (fun _ _ u => .next u) = .next t) :
    Accounts s t :=
  of_runRow h fun _ _ _ hu => Host.Outcome.next.inj hu ▸ refl

theorem of_dispatch {n : Nat} {op : Byte} (h : dispatch exec n op s = .next t) : Accounts s t := by
  induction n generalizing s op with
  | zero =>
    simp only [dispatch] at h
    split at h
    · cases h
    · exact of_runRow h fun _ _ _ => of_lastRow
  | succ n ih =>
    refine of_runRow h fun _ _ _ h' => of_runRow h' fun dom _ _ h'' => ?_
    cases dom with
    | base => exact ih h''
    | cb | ed | index _ | indexCB _ _ => exact of_lastRow h''

theorem acceptNMI : Accounts s s.acceptNMI := by
  rw [State.acceptNMI_eq]
  exact ⟨_, rfl, rfl, rfl, rfl⟩

theorem interruptEntry : Accounts s s.interruptEntry := by
  rw [State.interruptEntry_eq]
  exact ⟨_, rfl, rfl, rfl, rfl⟩

theorem acceptINT : Accounts s s.acceptINT := by
  have hs : Accounts s { s.interruptEntry with iff2 := false } := interruptEntry.keeps rfl
  rw [State.acceptINT]
  split
  · exact enter (hs.trans memRead16)
  · exact enter hs
  · exact enter hs

theorem takeInt : Accounts s s.takeInt := .ite acceptINT refl

theorem checkBreakpoint : Accounts s s.checkBreakpoint := .ite ⟨[.notify], rfl, rfl, rfl, rfl⟩ refl

theorem fetchOpcode : Accounts s s.fetchOpcode := m1.keeps rfl

/-- A step accounts for what it does from its beginning, where its event list is empty. -/
theorem of_step (h : step s = .next t) : Accounts s.beginStep t := by
  cases hn : s.activeNMI with
  | true =>
    rw [step_of_nmi hn] at h
    exact Host.Outcome.next.inj h ▸ acceptNMI
  | false =>
    rw [step_of_no_nmi hn] at h
    split at h
    · next u hu =>
      have hfetch : Accounts s.beginStep s.atFetch.fetchOpcode := (takeInt.trans checkBreakpoint).trans fetchOpcode
      exact Host.Outcome.next.inj h ▸ (hfetch.trans (of_dispatch hu)).keeps rfl
    · cases h
    · cases h

end Accounts

/-- Settles O19: the first clause is `Accounts` for an instruction, the second its memory part for a step, whose event list
starts empty. -/
theorem eventsTellMemoryAndPorts : Obligations.EventsTellMemoryAndPorts := by
  refine ⟨fun i s t h => Accounts.of_exec h, fun s t h => ?_⟩
  obtain ⟨evs, he, hm, -⟩ := Accounts.of_step h
  obtain rfl : t.events = evs := he
  exact hm

end Sys2Proof.Machine
end

section
/-!
PROOFS. The rows of a domain: exactly one is hit by each byte, and what it builds from the byte and two operand bytes is a
well-formed instruction of the domain that starts with that byte again. O7 follows.
-/

namespace Sys2Proof

/-! ## What a row says of its dispatching byte, whatever the operand bytes -/

/-- The dispatching byte that the row's instruction is encoded with. -/
def Row.opByte (row : Row) (op : Byte) : Byte := (row.build op 0 0).rowBytes.headD 0

/-- The row's instruction is well-formed. -/
def Row.wfAt (row : Row) (op : Byte) : Bool := (row.build op 0 0).wf

/-- The row's instruction is well-formed and is encoded with the byte it was selected by. -/
def Row.keepsOp (row : Row) (op : Byte) : Bool := row.wfAt op && row.opByte op == op

/-- The instruction of a row belongs to the domain, and the operand bytes (the halves of `nn`) stand in its encoding as they
were read: its well-formedness and its dispatching byte do not depend on them. -/
def Row.ReadsOperands (dom : Domain) (row : Row) : Prop :=
  ∀ (op : Byte) (nn : Word), (row.build op (lo8 nn) (hi8 nn)).domain = dom ∧
    (row.build op (lo8 nn) (hi8 nn)).wf = row.wfAt op ∧
    (row.build op (lo8 nn) (hi8 nn)).rowBytes =
      row.opByte op :: [lo8 nn, hi8 nn].take (row.build op (lo8 nn) (hi8 nn)).operandCount

/-- Row by row: each field of an instruction is filled from the byte or from the operands. -/
theorem Row.readsOperands (dom : Domain) : ∀ row ∈ rowsOf dom, row.ReadsOperands dom := by
  cases dom <;>
    (simp only [rowsOf, baseRows, cbRows, edRows, indexRows, indexCBRows, List.cons_append, List.nil_append,
      List.forall_mem_cons, List.not_mem_nil, IsEmpty.forall_iff, implies_true, and_true, Row.ReadsOperands, mk16_hi8_lo8]
     constructorm* _ ∧ _
     all_goals exact fun _ _ => ⟨rfl, rfl, rfl⟩)

/-! ## Which row a byte hits does not depend on the index register and the displacement -/

/-- The domain with its index register and displacement fixed. -/
def Domain.shape : Domain → Domain
  | .base => .base
  | .cb => .cb
  | .ed => .ed
  | .index _ => .index .ix
  | .indexCB _ _ => .indexCB .ix 0

theorem map_hits_keepsOp_shape (dom : Domain) :
    ((rowsOf dom).map fun row => (row.hits, row.keepsOp)) =
      (rowsOf dom.shape).map fun row => (row.hits, row.keepsOp) := by
  cases dom <;> rfl

theorem filter_hits_shape (dom : Domain) (op : Byte) :
    ((rowsOf dom).filter (·.hits op)).map (·.keepsOp op) =
      ((rowsOf dom.shape).filter (·.hits op)).map (·.keepsOp op) := by
  have h := congrArg (fun l => (l.filter (·.1 op)).map (·.2 op)) (map_hits_keepsOp_shape dom)
  rwa [List.filter_map, List.filter_map, List.map_map, List.map_map] at h

/-! ## One row for each byte (R162, R168) -/

/-- `Row.hits` on the number of the byte: a check of all 256 bytes is quick on numbers. -/
def Row.hitsNat (row : Row) (k : Nat) : Bool :=
  Nat.beq (Nat.land k row.mask.toNat) row.pattern.toNat && row.exclude.all fun v => !Nat.beq v.toNat k

theorem Row.hitsNat_toNat (row : Row) (op : Byte) : row.hitsNat op.toNat = row.hits op := by
  have hmask : Nat.beq (Nat.land op.toNat row.mask.toNat) row.pattern.toNat = (op &&& row.mask == row.pattern) := by
    rw [Bool.eq_iff_iff, Nat.beq_eq, beq_iff_eq, ← BitVec.toNat_inj, BitVec.toNat_and]
    rfl
  have hexclude : (row.exclude.all fun v => !Nat.beq v.toNat op.toNat) = !row.exclude.contains op := by
    rw [Bool.eq_iff_iff]
    simp only [List.all_eq_true, Bool.not_eq_true', ← Bool.not_eq_true, Nat.beq_eq, BitVec.toNat_inj, List.contains_iff_mem]
    exact ⟨fun h hop => h op hop rfl, fun h v hv hvop => h (hvop ▸ hv)⟩
  rw [Row.hitsNat, Row.hits, hmask, hexclude]

/-- Each byte, by its number, hits one row of the domain, which keeps it. -/
def OneRowPerByte (dom : Domain) : Prop :=
  ∀ k < 256, ((rowsOf dom).filter (·.hitsNat k)).map (·.keepsOp (BitVec.ofNat 8 k)) = [true]

theorem oneRowPerByte_base : OneRowPerByte .base := by unfold OneRowPerByte; decide +kernel
theorem oneRowPerByte_cb : OneRowPerByte .cb := by unfold OneRowPerByte; decide +kernel
theorem oneRowPerByte_ed : OneRowPerByte .ed := by unfold OneRowPerByte; decide +kernel
theorem oneRowPerByte_index : OneRowPerByte (.index .ix) := by unfold OneRowPerByte; decide +kernel
theorem oneRowPerByte_indexCB : OneRowPerByte (.indexCB .ix 0) := by unfold OneRowPerByte; decide +kernel

theorem oneRowPerByte_shape (dom : Domain) : OneRowPerByte dom.shape := by
  cases dom with
  | base => exact oneRowPerByte_base
  | cb => exact oneRowPerByte_cb
  | ed => exact oneRowPerByte_ed
  | index _ => exact oneRowPerByte_index
  | indexCB _ _ => exact oneRowPerByte_indexCB

/-- The one row that a byte hits keeps the byte. -/
theorem exists_filter_hits (dom : Domain) (op : Byte) :
    ∃ row, (rowsOf dom).filter (·.hits op) = [row] ∧ row.keepsOp op = true := by
  have h := oneRowPerByte_shape dom op.toNat op.isLt
  simp only [Row.hitsNat_toNat, BitVec.ofNat_toNat, BitVec.setWidth_eq] at h
  rw [← filter_hits_shape] at h
  obtain ⟨row, hrow, hkeep⟩ := List.map_eq_singleton_iff.1 h
  exact ⟨row, hrow, hkeep⟩

/-! ## The row that is selected -/

theorem selectRow_of_filter {rows : List Row} {row : Row} {op : Byte} (n1 n2 : Byte)
    (h : rows.filter (·.hits op) = [row]) : selectRow op n1 n2 rows = row.build op n1 n2 := by
  induction rows with
  | nil => cases h
  | cons r rows ih =>
    cases hr : r.hits op with
    | true =>
      rw [List.filter_cons_of_pos (by exact hr)] at h
      rw [selectRow, if_pos hr, (List.cons.inj h).1]
    | false =>
      rw [List.filter_cons_of_neg (by simp [hr])] at h
      rw [selectRow, if_neg (by simp [hr]), ih h]

/-- A row of the domain that the byte hits is the one selected. -/
theorem decodeOp_of_hits {dom : Domain} {row : Row} {op : Byte} (n1 n2 : Byte) (hmem : row ∈ rowsOf dom)
    (hhit : row.hits op = true) : decodeOp dom op n1 n2 = row.build op n1 n2 := by
  obtain ⟨row', hrow', -⟩ := exists_filter_hits dom op
  have h : row ∈ (rowsOf dom).filter (·.hits op) := List.mem_filter.2 ⟨hmem, hhit⟩
  rw [hrow', List.mem_singleton] at h
  rw [decodeOp, selectRow_of_filter n1 n2 hrow', h]

/-- What is decoded is well-formed, of its domain, and encodes to the bytes it was read from. -/
theorem decodeOp_sound (dom : Domain) (op n1 n2 : Byte) :
    (decodeOp dom op n1 n2).wf = true ∧ (decodeOp dom op n1 n2).domain = dom ∧
      (decodeOp dom op n1 n2).rowBytes = op :: [n1, n2].take (decodeOp dom op n1 n2).operandCount := by
  obtain ⟨row, hrow, hkeep⟩ := exists_filter_hits dom op
  have hmem : row ∈ rowsOf dom := (List.mem_filter.1 (hrow ▸ List.mem_singleton_self row)).1
  obtain ⟨hdom, hwf, hbytes⟩ := Row.readsOperands dom row hmem op (mk16 n2 n1)
  simp only [Row.keepsOp, Bool.and_eq_true, beq_iff_eq] at hkeep
  simp only [lo8_mk16, hi8_mk16, hkeep] at hdom hwf hbytes
  rw [decodeOp, selectRow_of_filter n1 n2 hrow]
  exact ⟨hwf, hdom, hbytes⟩

/-! ## Byte streams -/

/-- The operand bytes that `decodeRow` hands on are the next bytes of the stream, as far as the row reads them. -/
theorem take_headD_eq_take {l : List Byte} {n : Nat} (h2 : n ≤ 2) (hl : n ≤ l.length) :
    [l.headD 0, l.tail.headD 0].take n = l.take n := by
  match n, l, h2, hl with
  | 0, _, _, _ => rfl
  | 1, _ :: _, _, _ => rfl
  | 2, _ :: _ :: _, _, _ => rfl

theorem operandCount_decodeOp_le (dom : Domain) (op n1 n2 : Byte) : (decodeOp dom op n1 n2).operandCount ≤ 2 := by
  have h := congrArg List.length (decodeOp_sound dom op n1 n2).2.2
  simp only [List.length_cons, List.length_take, List.length_nil] at h
  rw [Instr.operandCount] at h ⊢
  omega

theorem decodeRow_sound {dom : Domain} {bytes rest : List Byte} {i : Instr} (h : decodeRow dom bytes = .ok (i, rest)) :
    i.wf = true ∧ i.domain = dom ∧ bytes = i.rowBytes ++ rest := by
  cases bytes with
  | nil => cases h
  | cons op tail =>
    obtain ⟨rfl, hlen, rfl⟩ := decodeRow_eq_ok.1 h
    obtain ⟨hwf, hdom, hbytes⟩ := decodeOp_sound dom op (tail.headD 0) (tail.tail.headD 0)
    refine ⟨hwf, hdom, ?_⟩
    rw [hbytes, take_headD_eq_take (operandCount_decodeOp_le ..) hlen, List.cons_append, List.take_append_drop]

/-- Settles O7: one row for each byte, and `decodeRow_sound`. -/
theorem encodeOfDecode : Obligations.EncodeOfDecode := by
  refine ⟨fun dom op => ?_, fun _ _ _ _ => decodeRow_sound⟩
  obtain ⟨row, hrow, -⟩ := exists_filter_hits dom op
  rw [hrow, List.length_singleton]

end Sys2Proof
end

section
/-!
PROOFS. Decoding after encoding: the row that the dispatching byte of a well-formed instruction selects builds the instruction
again, one case for each group of instructions with the same operand fields; and the rows that lead into its domain, as a
chain. O6 follows.
-/

namespace Sys2Proof

/-! ## The first row that a byte hits, by its number -/

/-- The number of the first row of the domain that the byte hits. -/
def rowIndex (dom : Domain) (op : Byte) : Nat := ((rowsOf dom).map Row.hitsNat).findIdx fun hits => hits op.toNat

theorem map_hitsNat_shape (dom : Domain) : (rowsOf dom).map Row.hitsNat = (rowsOf dom.shape).map Row.hitsNat := by
  cases dom <;> rfl

theorem rowIndex_shape (dom : Domain) (op : Byte) : rowIndex dom.shape op = rowIndex dom op := by
  rw [rowIndex, rowIndex, map_hitsNat_shape dom]

theorem selectRow_of_findIdx {rows : List Row} {row : Row} {op : Byte} (n1 n2 : Byte)
    (h : rows[(rows.map Row.hitsNat).findIdx fun hits => hits op.toNat]? = some row) :
    selectRow op n1 n2 rows = row.build op n1 n2 := by
  induction rows with
  | nil => cases h
  | cons r rows ih =>
    rw [List.map_cons, List.findIdx_cons, Row.hitsNat_toNat] at h
    cases hr : r.hits op with
    | true =>
      rw [hr] at h
      rw [selectRow, if_pos hr, Option.some.inj h]
    | false =>
      rw [hr] at h
      rw [selectRow, if_neg (by simp [hr]), ih h]

/-! ## Bytes with the fields y and z (R142) -/

/-- A byte filled from y and z gives both back, in whichever quarter of the 256 bytes. -/
theorem fields_opZ_opY {p : Byte} (hp : p &&& 0x3F = 0) (y z : BitVec 3) :
    fieldY (opZ (opY p y) z) = y ∧ fieldZ (opZ (opY p y) z) = z := by
  have hquarter : ∀ p : Byte, p &&& 0x3F = 0 → p ∈ [(0x00 : Byte), 0x40, 0x80, 0xC0] := by decide
  have hfields : ∀ p ∈ [(0x00 : Byte), 0x40, 0x80, 0xC0], ∀ y z : BitVec 3,
      fieldY (opZ (opY p y) z) = y ∧ fieldZ (opZ (opY p y) z) = z := by
    decide +kernel
  exact hfields p (hquarter p hp) y z

theorem Reg8.code_ne_six (r : Reg8) : r.code ≠ 6 := by cases r <;> decide

theorem Reg8.ofCode_of_eq {k : BitVec 3} {r : Reg8} (h : k = r.code) : Reg8.ofCode k = r := h ▸ r.ofCode_code

/-- The row of LD r,s. -/
theorem rowIndex_ldRR : ∀ y z : BitVec 3, y ≠ 6 → z ≠ 6 → rowIndex .base (opZ (opY 0x40 y) z) = 31 := by
  decide +kernel

/-- The rows of BIT, RES and SET on registers. -/
theorem rowIndex_cb_bits : ∀ y z : BitVec 3, z ≠ 6 →
    rowIndex .cb (opZ (opY 0x40 y) z) = 16 ∧ rowIndex .cb (opZ (opY 0x80 y) z) = 18 ∧
      rowIndex .cb (opZ (opY 0xC0 y) z) = 20 := by
  decide +kernel

/-- The rows of BIT b,(X+d), and of RES b,(X+d),r and SET b,(X+d),r. -/
theorem rowIndex_indexCB_bits : ∀ y z : BitVec 3,
    rowIndex (.indexCB .ix 0) (opZ (opY 0x40 y) z) = 16 ∧
      (z ≠ 6 → rowIndex (.indexCB .ix 0) (opZ (opY 0x80 y) z) = 18 ∧
        rowIndex (.indexCB .ix 0) (opZ (opY 0xC0 y) z) = 20) := by
  decide +kernel

/-! ## One row read back -/

/-- The instruction's own bytes decode, in its domain, to it. -/
def Instr.ReadsBack (i : Instr) : Prop :=
  ∀ rest : List Byte, decodeRow i.domain (i.rowBytes ++ rest) = .ok (i, rest)

namespace Instr.ReadsBack
variable {i : Instr} {op : Byte} {ops : List Byte}

theorem of_decodeOp (hbytes : i.rowBytes = op :: ops)
    (hi : ∀ rest : List Byte, decodeOp i.domain op ((ops ++ rest).headD 0) ((ops ++ rest).tail.headD 0) = i) :
    i.ReadsBack := by
  intro rest
  have hcount : i.operandCount = ops.length := by rw [operandCount, hbytes]; rfl
  rw [hbytes, List.cons_append]
  refine decodeRow_eq_ok.2 ⟨(hi rest).symm, ?_, ?_⟩
  · rw [hcount, List.length_append]
    exact Nat.le_add_right _ _
  · rw [hcount, List.drop_left]

/-- The row that the dispatching byte selects builds the instruction. Its number is found in the domain's shape, where it is
computed. -/
theorem of_row {row : Row} (hbytes : i.rowBytes = op :: ops)
    (hrow : (rowsOf i.domain)[rowIndex i.domain.shape op]? = some row)
    (hi : ∀ rest : List Byte, row.build op ((ops ++ rest).headD 0) ((ops ++ rest).tail.headD 0) = i) : i.ReadsBack := by
  rw [rowIndex_shape] at hrow
  exact of_decodeOp hbytes fun rest => (selectRow_of_findIdx _ _ hrow).trans (hi rest)

/-- The same for an instruction of one byte with the fields y and z, by the number of its row. -/
theorem of_two_fields {p : Byte} {y z : BitVec 3} {k : Nat} {row : Row} (hbytes : i.rowBytes = [opZ (opY p y) z])
    (hp : p &&& 0x3F = 0) (hindex : rowIndex i.domain.shape (opZ (opY p y) z) = k)
    (hrow : (rowsOf i.domain)[k]? = some row)
    (hi : ∀ op n1 n2, fieldY op = y → fieldZ op = z → row.build op n1 n2 = i) : i.ReadsBack :=
  of_row hbytes (hindex ▸ hrow) fun _ => hi _ _ _ (fields_opZ_opY hp y z).1 (fields_opZ_opY hp y z).2

end Instr.ReadsBack

/-! ## The rows that take every byte of a set -/

/-- Pattern and mask of the eight rows of the ED no-op (R585). -/
def edNopSelectors : List (Byte × Byte) :=
  [(0x77, 0xF7), (0x00, 0xC0), (0x80, 0xE0), (0xA4, 0xFC), (0xAC, 0xFC), (0xB4, 0xFC), (0xBC, 0xFC), (0xC0, 0xC0)]

theorem edNopSelectors_mem :
    ∀ sel ∈ edNopSelectors, (⟨sel.1, sel.2, [], fun op _ _ => .edNop op⟩ : Row) ∈ rowsOf .ed := by
  simp only [edNopSelectors, List.forall_mem_cons]
  exact ⟨List.mem_of_getElem? (i := 20) rfl, List.mem_of_getElem? (i := 37) rfl, List.mem_of_getElem? (i := 38) rfl,
    List.mem_of_getElem? (i := 39) rfl, List.mem_of_getElem? (i := 40) rfl, List.mem_of_getElem? (i := 41) rfl,
    List.mem_of_getElem? (i := 42) rfl, List.mem_of_getElem? (i := 43) rfl, nofun⟩

theorem edNopSelectors_of_isEdNop :
    ∀ op : Byte, isEdNop op = true → ∃ sel ∈ edNopSelectors, op &&& sel.2 = sel.1 := by
  decide +kernel

/-- An unrecognized ED byte selects an ED no-op (R585). -/
theorem decodeOp_ed_of_isEdNop {op : Byte} (n1 n2 : Byte) (h : isEdNop op = true) :
    decodeOp .ed op n1 n2 = .edNop op := by
  obtain ⟨sel, hsel, hop⟩ := edNopSelectors_of_isEdNop op h
  refine decodeOp_of_hits n1 n2 (edNopSelectors_mem sel hsel) ?_
  simp [Row.hits, hop]

/-- A byte outside the DD/FD set selects the fallback row (R163). -/
theorem decodeOp_index_of_not_inIndexSet (x : IndexReg) {op : Byte} (n1 n2 : Byte) (h : inIndexSet op = false) :
    decodeOp (.index x) op n1 n2 = .ddFallback x op := by
  have hmem : ⟨0x00, 0x00, indexSet, fun op _ _ => .ddFallback x op⟩ ∈ rowsOf (.index x) :=
    List.mem_append_right _ (.tail _ (.tail _ (.tail _ (.head _))))
  refine decodeOp_of_hits n1 n2 hmem ?_
  rw [Row.hits, show indexSet.contains op = false from h]
  simp

/-! ## Every instruction -/

/-- Field by field: a case runs through the codes of a register, pair, condition or bit field, so that the dispatching byte is a
literal and its row is computed; the operand bytes stay variable. The codes that `Instr.wf` refuses end their case. -/
theorem Instr.readsBack (i : Instr) : i.wf = true → i.ReadsBack := by
  cases i with
  | nop | ldBcA | rlca | exAfAf | ldABc | rrca | djnz _ | ldDeA | rla | jr _ | ldADe | rra | daa | cpl | incHl
  | decHl | ldHlN _ | scf | ccf | halt | addHl | addN _ | adcHl | adcN _ | subHl | subN _ | sbcHl | sbcN _ | andHl
  | andN _ | xorHl | xorN _ | orHl | orN _ | cpHl | cpN _ | ret | prefixCB | outNA _ | exx | inAN _ | prefixDD
  | exSpHl | jpHl | exDeHl | prefixED | di | ldSpHl | ei | prefixFD | rlcHl | rrcHl | rlHl | rrHl | slaHl | sraHl
  | sllHl | srlHl | inC | outC0 | reti | ldIA | ldRefreshA | ldAI | ldARefresh | rrd | rld | ldi | cpi | ini | outi
  | ldd | cpd | ind | outd | ldir | cpir | inir | otir | lddr | cpdr | indr | otdr | incX _ | incXh _ | decXh _
  | ldXhN _ _ | decX _ | incXl _ | decXl _ | ldXlN _ _ | incXd _ _ | decXd _ _ | ldXdN _ _ _ | addXh _ | addXl _
  | addXd _ _ | adcXh _ | adcXl _ | adcXd _ _ | subXh _ | subXl _ | subXd _ _ | sbcXh _ | sbcXl _ | sbcXd _ _
  | andXh _ | andXl _ | andXd _ _ | xorXh _ | xorXl _ | xorXd _ _ | orXh _ | orXl _ | orXd _ _ | cpXh _ | cpXl _
  | cpXd _ _ | prefixXCB _ _ | popX _ | exSpX _ | pushX _ | jpX _ | ldSpX _ | rlcXd _ _ | rrcXd _ _ | rlXd _ _
  | rrXd _ _ | slaXd _ _ | sraXd _ _ | sllXd _ _ | srlXd _ _ => exact fun _ => .of_row rfl rfl fun _ => rfl
  | ldMemHl nn | ldHlMem nn | ldMemA nn | ldAMem nn | jp nn | call nn | ldXNn _ nn | ldMemX _ nn | ldXMem _ nn =>
    exact fun _ => .of_row rfl rfl fun _ => congrArg _ (mk16_hi8_lo8 nn)
  | ldRpNn k nn | ldMemRp k nn | ldRpMem k nn | jpCc k nn | callCc k nn =>
    cases k <;> exact fun _ => .of_row rfl rfl fun _ => congrArg _ (mk16_hi8_lo8 nn)
  | incRp k | addHlRp k | decRp k | sbcHlRp k | adcHlRp k | popQq k | pushQq k | addXRp _ k | ldXhS _ k | ldXlS _ k
  | retCc k | incR k | decR k | ldRN k _ | ldRHl k | ldHlR k | addR k | adcR k | subR k | sbcR k | andR k | xorR k
  | orR k | cpR k | rlcR k | rrcR k | rlR k | rrR k | slaR k | sraR k | sllR k | srlR k | inRC k | outCR k
  | ldRXd _ _ k | ldXdR _ _ k | rlcXdR _ _ k | rrcXdR _ _ k | rlXdR _ _ k | rrXdR _ _ k | slaXdR _ _ k | sraXdR _ _ k
  | sllXdR _ _ k | srlXdR _ _ k => cases k <;> exact fun _ => .of_row rfl rfl fun _ => rfl
  | rst k | bitHl k | resHl k | setHl k | neg k | resXd _ _ k | setXd _ _ k =>
    revert k
    refine forall_code3.2 ⟨?_, ?_, ?_, ?_, ?_, ?_, ?_, ?_⟩ <;> exact fun _ => .of_row rfl rfl fun _ => rfl
  | ldRR r s =>
    exact fun _ => .of_two_fields rfl rfl (rowIndex_ldRR _ _ r.code_ne_six s.code_ne_six) rfl fun _ _ _ hy hz =>
      congrArg₂ ldRR (Reg8.ofCode_of_eq hy) (Reg8.ofCode_of_eq hz)
  | bitR k r =>
    exact fun _ => .of_two_fields rfl rfl (rowIndex_cb_bits _ _ r.code_ne_six).1 rfl fun _ _ _ hy hz =>
      congrArg₂ bitR hy (Reg8.ofCode_of_eq hz)
  | resR k r =>
    exact fun _ => .of_two_fields rfl rfl (rowIndex_cb_bits _ _ r.code_ne_six).2.1 rfl fun _ _ _ hy hz =>
      congrArg₂ resR hy (Reg8.ofCode_of_eq hz)
  | setR k r =>
    exact fun _ => .of_two_fields rfl rfl (rowIndex_cb_bits _ _ r.code_ne_six).2.2 rfl fun _ _ _ hy hz =>
      congrArg₂ setR hy (Reg8.ofCode_of_eq hz)
  | bitXd x d k z =>
    exact fun _ => .of_two_fields rfl rfl (rowIndex_indexCB_bits _ _).1 rfl fun _ _ _ hy hz =>
      congrArg₂ (bitXd x d) hy hz
  | resXdR x d k r =>
    exact fun _ => .of_two_fields rfl rfl ((rowIndex_indexCB_bits _ _).2 r.code_ne_six).1 rfl fun _ _ _ hy hz =>
      congrArg₂ (resXdR x d) hy (Reg8.ofCode_of_eq hz)
  | setXdR x d k r =>
    exact fun _ => .of_two_fields rfl rfl ((rowIndex_indexCB_bits _ _).2 r.code_ne_six).2 rfl fun _ _ _ hy hz =>
      congrArg₂ (setXdR x d) hy (Reg8.ofCode_of_eq hz)
  | jrCc cc _ =>
    cases cc with
    | nz | z | nc | c => exact fun _ => .of_row rfl rfl fun _ => rfl
    | po | pe | p | m => exact fun h => (Bool.false_ne_true h).elim
  | ldRXh _ r | ldRXl _ r =>
    cases r with
    | b | c | d | e | a => exact fun _ => .of_row rfl rfl fun _ => rfl
    | h | l => exact fun h => (Bool.false_ne_true h).elim
  | retn y =>
    revert y
    refine forall_code3.2 ⟨?_, nofun, ?_, ?_, ?_, ?_, ?_, ?_⟩ <;> exact fun _ => .of_row rfl rfl fun _ => rfl
  | im0 y =>
    revert y
    refine forall_code3.2 ⟨?_, ?_, nofun, nofun, ?_, ?_, nofun, nofun⟩ <;> exact fun _ => .of_row rfl rfl fun _ => rfl
  | im1 y =>
    revert y
    refine forall_code3.2 ⟨nofun, nofun, ?_, nofun, nofun, nofun, ?_, nofun⟩ <;>
      exact fun _ => .of_row rfl rfl fun _ => rfl
  | im2 y =>
    revert y
    refine forall_code3.2 ⟨nofun, nofun, nofun, ?_, nofun, nofun, nofun, ?_⟩ <;>
      exact fun _ => .of_row rfl rfl fun _ => rfl
  | edNop op => exact fun h => .of_decodeOp rfl fun _ => decodeOp_ed_of_isEdNop _ _ h
  | ddFallback x op =>
    exact fun h => .of_decodeOp rfl fun _ => decodeOp_index_of_not_inIndexSet x _ _ ((Bool.not_eq_true' _).mp h)

/-! ## The chain of rows that lead to an instruction -/

/-- A row that does not continue ends the chain. -/
theorem decodeChain_of_ends {n : Nat} {dom : Domain} {bytes rest : List Byte} {i : Instr}
    (hrow : decodeRow dom bytes = .ok (i, rest)) (hc : i.continues = none) :
    decodeChain (n + 1) dom bytes = .ok ([i], rest) := by
  simp only [decodeChain, hrow, hc]

/-- A row that continues in another domain than the unprefixed one goes on with the bytes after it (R162, R165); the DD/FD
fallback, which goes on with its own byte, is no such row. -/
theorem decodeChain_of_continues {n : Nat} {dom dom' : Domain} {bytes rest rest' : List Byte} {i : Instr}
    {is : List Instr} (hrow : decodeRow dom bytes = .ok (i, rest)) (hc : i.continues = some dom') (hbase : dom' ≠ .base)
    (h : decodeChain n dom' rest = .ok (is, rest')) : decodeChain (n + 1) dom bytes = .ok (i :: is, rest') := by
  -- the side condition under which `simp` takes the second branch of the match in `decodeChain`
  have hfallback : ∀ x op, i = .ddFallback x op → False := by
    rintro x op rfl
    exact hbase (Option.some.inj hc).symm
  simp only [decodeChain, hrow, hc, h]

/-- The row that selects an index register (R150). -/
def IndexReg.leadRow : IndexReg → Instr
  | .ix => .prefixDD
  | .iy => .prefixFD

theorem IndexReg.continues_leadRow (x : IndexReg) : x.leadRow.continues = some (.index x) := by cases x <;> rfl

theorem IndexReg.decodeRow_leadRow (x : IndexReg) (rest : List Byte) :
    decodeRow .base (x.byte :: rest) = .ok (x.leadRow, rest) := by
  cases x with
  | ix => exact Instr.readsBack .prefixDD rfl rest
  | iy => exact Instr.readsBack .prefixFD rfl rest

/-- The rows that lead from the unprefixed domain into a domain; their bytes are `Domain.lead`. -/
def Domain.leadRows : Domain → List Instr
  | .base => []
  | .cb => [.prefixCB]
  | .ed => [.prefixED]
  | .index x => [x.leadRow]
  | .indexCB x d => [x.leadRow, .prefixXCB x d]

/-- A chain that starts in a domain is, after the bytes that lead into the domain, the same chain with these rows before it. -/
theorem decodeChain_lead (dom : Domain) {bytes rest : List Byte} {is : List Instr}
    (h : ∀ n, decodeChain (n + 1) dom bytes = .ok (is, rest)) :
    decodeChain 4 .base (dom.lead ++ bytes) = .ok (dom.leadRows ++ is, rest) := by
  cases dom with
  | base => exact h 3
  | cb => exact decodeChain_of_continues (Instr.readsBack .prefixCB rfl bytes) rfl nofun (h 2)
  | ed => exact decodeChain_of_continues (Instr.readsBack .prefixED rfl bytes) rfl nofun (h 2)
  | index x => exact decodeChain_of_continues (x.decodeRow_leadRow bytes) x.continues_leadRow nofun (h 2)
  | indexCB x d =>
    exact decodeChain_of_continues (x.decodeRow_leadRow (0xCB :: d :: bytes)) x.continues_leadRow nofun
      (decodeChain_of_continues (Instr.readsBack (.prefixXCB x d) rfl bytes) rfl nofun (h 1))

/-- Settles O6: `Instr.readsBack`, and the rows that lead into the instruction's domain before its own. -/
theorem decodeOfEncode : Obligations.DecodeOfEncode := by
  intro i rest hwf
  have hrow := i.readsBack hwf rest
  refine ⟨hrow, fun hc => ⟨i.domain.leadRows, ?_⟩⟩
  rw [encode, List.append_assoc]
  exact decodeChain_lead i.domain fun n => decodeChain_of_ends hrow hc

end Sys2Proof
end

section
/-!
PROOFS. A DD or FD byte before a byte outside the DD/FD set costs one M1 fetch and nothing else: O10, and O5 by induction on
the length of the chain. And the words of O8.
-/

namespace Sys2Proof.Machine

/-! ## One stray DD or FD (R163) -/

theorem decodeOp_base_byte (x : IndexReg) (n1 n2 : Byte) : decodeOp .base x.byte n1 n2 = x.leadRow := by
  cases x <;> rfl

theorem exec_leadRow (x : IndexReg) (s : State) : exec x.leadRow s = .next s.m1 := by cases x <;> rfl

theorem operandCount_leadRow (x : IndexReg) : x.leadRow.operandCount = 0 := by cases x <;> rfl

/-- A DD or FD byte before a byte outside the DD/FD set: the first row fetches that byte, the fallback row hands it on. -/
theorem dispatch_byte_of_not_inIndexSet (s : State) (x : IndexReg) (n : Nat) (h : inIndexSet (s.byteAt s.pc) = false) :
    dispatch exec (n + 1) x.byte s = dispatch exec n (s.byteAt s.pc) s.m1 := by
  have hexec : exec x.leadRow (s.fetchOperands x.leadRow.operandCount) = .next s.m1 := by
    rw [operandCount_leadRow]
    exact exec_leadRow x s
  rw [dispatch, runRow_continues (decodeOp_base_byte x _ _) hexec x.continues_leadRow, if_neg nofun,
    operandCount_leadRow, State.fetchOperands, runRow_continues (t := s.m1) (decodeOp_index_of_not_inIndexSet x _ _ h) rfl rfl]
  rfl

/-- Settles O10: each row's meaning, and `dispatch_byte_of_not_inIndexSet`. -/
theorem prefixRowsAndFallback : Obligations.PrefixRowsAndFallback := by
  refine ⟨fun s i hi => ?_, fun s x d => ⟨_, rfl, rfl⟩, fun s x op => ⟨_, rfl, rfl⟩, fun s x n h => ?_⟩
  · simp only [List.mem_cons, List.not_mem_nil, or_false] at hi
    rcases hi with rfl | rfl | rfl | rfl <;> exact ⟨_, rfl, s.m1_eq⟩
  · rw [dispatch_byte_of_not_inIndexSet s x n h, State.m1_eq]

/-! ## The endless chain (R164) -/

/-- The state after `n` M1 fetches in a row. -/
def State.afterFetches (s : State) (n : Nat) : State :=
  { s with
    pc := s.pc + BitVec.ofNat 16 n
    r := refreshAfter s.r n
    events := s.events ++ (List.range n).map fun k => Event.fetch (s.pc + BitVec.ofNat 16 k) }

theorem refreshAfter_zero (r : Byte) : refreshAfter r 0 = r := by
  apply BitVec.eq_of_toNat_eq
  rw [refreshAfter_toNat]
  omega

theorem refreshAfter_add (r : Byte) (m n : Nat) : refreshAfter (refreshAfter r m) n = refreshAfter r (m + n) := by
  apply BitVec.eq_of_toNat_eq
  simp only [refreshAfter_toNat]
  omega

/-- R counts modulo 128 (R51). -/
theorem refreshAfter_of_dvd (r : Byte) {n : Nat} (h : 128 ∣ n) : refreshAfter r n = r := by
  apply BitVec.eq_of_toNat_eq
  rw [refreshAfter_toNat]
  omega

theorem State.afterFetches_zero (s : State) : s.afterFetches 0 = s := by
  simp [State.afterFetches, refreshAfter_zero]

theorem State.afterFetches_m1 (s : State) (n : Nat) : s.m1.afterFetches n = s.afterFetches (n + 1) := by
  have hpc : ∀ k : Nat, s.pc + 1 + BitVec.ofNat 16 k = s.pc + BitVec.ofNat 16 (k + 1) := by
    intro k
    rw [BitVec.add_assoc, BitVec.add_comm 1, BitVec.ofNat_add]
    rfl
  have hfirst : s.pc + BitVec.ofNat 16 0 = s.pc := BitVec.add_zero _
  rw [State.m1_eq]
  simp only [State.afterFetches, hpc, hfirst, refreshAfter_add, Nat.add_comm 1 n, List.range_succ_eq_map, List.map_cons,
    List.map_map, Function.comp_def, List.append_assoc, List.cons_append, List.nil_append, Nat.succ_eq_add_one]

/-- Each byte of a memory of DD and FD bytes only. -/
theorem EndlessChain.exists_byte {s : State} (h : EndlessChain s.mem) (p : Word) : ∃ x : IndexReg, s.byteAt p = x.byte := by
  rcases h p with hp | hp
  · exact ⟨.ix, hp⟩
  · exact ⟨.iy, hp⟩

theorem inIndexSet_byte (x : IndexReg) : inIndexSet x.byte = false := by cases x <;> decide

theorem isIndexByte_byte (x : IndexReg) : isIndexByte x.byte = true := by cases x <;> decide

/-- In a memory of DD and FD bytes only, the step consumes as many as it may and ends with Hang. -/
theorem dispatch_endlessChain {s : State} (h : EndlessChain s.mem) (x : IndexReg) (n : Nat) :
    dispatch exec n x.byte s = .fault (.hang (s.afterFetches n)) := by
  induction n generalizing s x with
  | zero => rw [dispatch, if_pos (isIndexByte_byte x), State.afterFetches_zero]
  | succ n ih =>
    obtain ⟨y, hy⟩ := h.exists_byte s.pc
    rw [dispatch_byte_of_not_inIndexSet s x n (hy ▸ inIndexSet_byte y), hy, ih (s := s.m1) h y, State.afterFetches_m1]

/-- After a multiple of 65,536 fetches PC has gone round memory and R round its counter. -/
theorem State.afterFetches_of_dvd (s : State) {n : Nat} (h : 65536 ∣ n) :
    s.afterFetches n = { s with
      events := s.events ++ (List.range n).map fun k => Event.fetch (s.pc + BitVec.ofNat 16 k) } := by
  have hpc : s.pc + BitVec.ofNat 16 n = s.pc := by
    have h0 : BitVec.ofNat 16 n = 0#16 := BitVec.eq_of_toNat_eq (Nat.mod_eq_zero_of_dvd h)
    rw [h0, BitVec.add_zero]
  have hr : refreshAfter s.r n = s.r := refreshAfter_of_dvd s.r (Nat.dvd_trans (by decide) h)
  rw [State.afterFetches, hpc, hr]

/-- The first fetch of the step clears flagQ; the fetches after it leave it alone. -/
theorem dispatch_fetchOpcode_endlessChain {s : State} (h : EndlessChain s.mem) (x : IndexReg) (n : Nat) :
    dispatch exec n x.byte s.fetchOpcode = .fault (.hang { s.afterFetches (n + 1) with flagQ := false }) := by
  rw [dispatch_endlessChain (s := s.fetchOpcode) h x n, ← State.afterFetches_m1]
  rfl

/-- Settles O5: the first fetch and 65,535 more. -/
theorem endlessChainHangs : Obligations.EndlessChainHangs := by
  intro s hnmi hchain
  obtain ⟨x, hx⟩ := hchain.exists_byte s.atFetch.pc
  have hlimit : Config.chainLimit - 1 + 1 = 65536 := rfl
  rw [step_of_no_nmi hnmi, hx, dispatch_fetchOpcode_endlessChain hchain, hlimit,
    State.afterFetches_of_dvd _ (Nat.dvd_refl 65536)]

/-! ## Known words (log 10) -/

/-- Settles O8: the decoder runs on the bytes of each word. -/
theorem knownWordsDecode : Obligations.KnownWordsDecode := by
  unfold Obligations.KnownWordsDecode
  decide +kernel

end Sys2Proof.Machine
end

section
/-!
PROOFS. What an instruction leaves unchanged but for the registers, memory and the events (`Effect`), write by write; and the
eight flags of a byte that is put together from the parts of Machine/Flags.lean.
-/

namespace Sys2Proof.Machine

/-! ## The frame, write by write -/

namespace Effect
variable {s t : State} {f : Byte} {q : Bool} {m : Word}

theorem refl (s : State) : Effect s s s.f s.flagQ s.memptr := rfl

theorem setR8 {k : Reg8} {v : Byte} (h : Effect s t f q m) : Effect s (t.setR8 k v) f q m := by
  cases k <;> (rw [Effect, h]; rfl)

theorem setX {x : IndexReg} {w : Word} (h : Effect s t f q m) : Effect s (t.setX x w) f q m := by
  cases x <;> (rw [Effect, h]; rfl)

theorem setXh {x : IndexReg} {v : Byte} (h : Effect s t f q m) : Effect s (t.setXh x v) f q m := h.setX

theorem setXl {x : IndexReg} {v : Byte} (h : Effect s t f q m) : Effect s (t.setXl x v) f q m := h.setX

theorem emit {ev : Event} (h : Effect s t f q m) : Effect s (t.emit ev) f q m := by
  rw [Effect, h]; rfl

theorem memWrite {p : Word} {v : Byte} (h : Effect s t f q m) : Effect s (t.memWrite p v) f q m := by
  rw [Effect, h]; rfl

theorem setMemptr {w : Word} (h : Effect s t f q m) : Effect s { t with memptr := w } f q w := by
  rw [Effect, h]

end Effect

theorem SameOperands.setMemptr {s u : State} (h : SameOperands s u) (w : Word) :
    SameOperands s { u with memptr := w } :=
  ⟨fun j => by rw [← h.1 j]; cases j <;> rfl, fun y => by rw [← h.2.1 y]; cases y <;> rfl, h.2.2⟩

/-! ## The flags of a byte put together from its parts (R45, R49) -/

@[simp] theorem flag_or (k : FlagBit) (f g : Byte) : flag k (f ||| g) = (flag k f || flag k g) := BitVec.getLsbD_or

@[simp] theorem flag_and (k : FlagBit) (f g : Byte) : flag k (f &&& g) = (flag k f && flag k g) := BitVec.getLsbD_and

@[simp] theorem flag_flagIf (k : FlagBit) (c : Bool) (g : Byte) : flag k (flagIf c g) = (c && flag k g) :=
  flagIf_getLsbD c g k.index

/-- Bit 7 of a byte is its sign (R45). -/
theorem flag_s_eq (v : Byte) : flag .s v = decide (v.toNat ≥ 128) := BitVec.msb_eq_decide v

/-- The table of S, Z, 5 and 3 (R49). -/
theorem tabAdd_flags (v : Byte) :
    FlagsAre (tabAdd v) (decide (v.toNat ≥ 128)) (decide (v = 0)) (v.getLsbD 5) false (v.getLsbD 3) false false false := by
  simp only [FlagsAre, tabAdd, ← flag_s_eq, flag_or, flag_and, flag_flagIf, beq_eq_decide]
  simp [flag, FlagBit.index]

end Sys2Proof.Machine
end

section
/-!
PROOFS. The 8-bit loads (40_load8.md): O22 to O27. Each load is one write to its place from a state with the operands of the
state it is given, so `Place.Written` and `Effect` follow from that write's own lemma.
-/

namespace Sys2Proof.Machine

/-- Settles O22: one register is written, or I or R. -/
theorem loadsBetweenRegisters : Obligations.LoadsBetweenRegisters := fun s r r' n x =>
  have load (v : Byte) : (Place.r r).Written s (s.setR8 r v) v ∧ Effect s (s.setR8 r v) s.f s.flagQ s.memptr :=
    ⟨Place.written_r r v (.refl s), .setR8 (.refl s)⟩
  ⟨⟨_, rfl, load (s.getR8 r')⟩, ⟨_, rfl, load n⟩, ⟨_, rfl, load (hi8 (s.getX x))⟩, ⟨_, rfl, load (lo8 (s.getX x))⟩,
    ⟨_, rfl, rfl⟩, ⟨_, rfl, rfl⟩⟩

/-- Settles O23: a register is written after the read, which for (X+d) follows the write of MEMPTR. -/
theorem loadsFromMemory : Obligations.LoadsFromMemory := fun s r x d =>
  ⟨⟨_, rfl, Place.written_r r _ (.emit (.refl s) _), .setR8 (.emit (.refl s))⟩,
    ⟨_, rfl, Place.written_r r _ (.emit (.indexed (.refl s) x d) _), .setR8 (.emit (.setMemptr (.refl s)))⟩⟩

/-- Settles O24: one byte of memory is written, for (X+d) after the write of MEMPTR. -/
theorem storesToMemory : Obligations.StoresToMemory := fun s r n x d =>
  have storeHl (v : Byte) : Place.hl.Written s (s.memWrite s.hl v) v ∧
      Effect s (s.memWrite s.hl v) s.f s.flagQ s.memptr :=
    ⟨Place.written_hl v (.refl s), .memWrite (.refl s)⟩
  have storeXd (v : Byte) : (Place.xd x d).Written s ((s.indexed x d).memWrite (s.ea x d) v) v ∧
      Effect s ((s.indexed x d).memWrite (s.ea x d) v) s.f s.flagQ (s.ea x d) :=
    ⟨Place.written_xd x d v (.indexed (.refl s) x d), .memWrite (.setMemptr (.refl s))⟩
  ⟨⟨_, rfl, storeHl (s.getR8 r)⟩, ⟨_, rfl, storeHl n⟩, ⟨_, rfl, storeXd (s.getR8 r)⟩, ⟨_, rfl, storeXd n⟩⟩

/-! ## The accumulator and an address (R205 to R210) -/

/-- MEMPTR after a store of A: the carry out of the low half is lost (R208 to R210). -/
theorem mk16_lo8_add_one (a : Byte) (p : Word) :
    mk16 a (lo8 p + 1) = BitVec.ofNat 16 (256 * a.toNat + (p.toNat + 1) % 256) := by
  have hlow : (lo8 p + 1).toNat = (p.toNat + 1) % 256 := by
    rw [BitVec.toNat_add, lo8_toNat]
    exact Nat.mod_add_mod p.toNat 256 1
  rw [mk16_eq_ofNat, hlow, Nat.add_comm]

/-- The load of A as writes one after the other; MEMPTR is one past the address. -/
theorem State.loadA_eq (s : State) (p : Word) :
    s.loadA p =
      ({ s.emit (.memRead p) with memptr := BitVec.ofNat 16 (p.toNat + 1) } : State).setR8 .a (s.byteAt p) := by
  have hnext : BitVec.ofNat 16 (p.toNat + 1) = p + 1 := by
    rw [BitVec.ofNat_add, BitVec.ofNat_toNat, BitVec.setWidth_eq]
    rfl
  rw [hnext]
  rfl

theorem State.loadA_written (s : State) (p : Word) : (Place.r .a).Written s (s.loadA p) (s.byteAt p) := by
  rw [State.loadA_eq]
  exact Place.written_r .a _ (.setMemptr (.emit (.refl s) _) _)

theorem State.loadA_effect (s : State) (p : Word) :
    Effect s (s.loadA p) s.f s.flagQ (BitVec.ofNat 16 (p.toNat + 1)) := by
  rw [State.loadA_eq]
  exact .setR8 (.setMemptr (.emit (.refl s)))

theorem State.byteAt_storeA_same (s : State) (p : Word) : (s.storeA p).byteAt p = s.a := s.byteAt_memWrite_same p s.a

theorem State.memKeptOutside_storeA (s : State) (p : Word) : MemKeptOutside [p] s (s.storeA p) :=
  fun _ hq => s.byteAt_memWrite_other s.a (List.ne_of_not_mem_cons hq)

/-- A store of A changes memory, the events and MEMPTR only. -/
theorem State.storeA_frame (s : State) (p : Word) :
    s.storeA p = { s with
      mem := (s.storeA p).mem, events := (s.storeA p).events
      memptr := BitVec.ofNat 16 (256 * s.a.toNat + (p.toNat + 1) % 256) } := by
  rw [← mk16_lo8_add_one]
  rfl

/-- Settles O25: `loadA` and `storeA` at each address. -/
theorem accumulatorLoadsAndStores : Obligations.AccumulatorLoadsAndStores := fun s nn =>
  have load (p : Word) := And.intro (s.loadA_written p) (s.loadA_effect p)
  have store (p : Word) := And.intro (s.byteAt_storeA_same p) (And.intro (s.memKeptOutside_storeA p) (s.storeA_frame p))
  ⟨⟨_, rfl, load s.bc⟩, ⟨_, rfl, load s.de⟩, ⟨_, rfl, load nn⟩,
    ⟨_, rfl, store s.bc⟩, ⟨_, rfl, store s.de⟩, ⟨_, rfl, store nn⟩⟩

/-! ## The halves of X (R216 to R219) -/

theorem State.getIndexSrc_eq (s : State) (x : IndexReg) (k : IndexSrc) :
    s.getIndexSrc x k = (srcPlace x k).value s := by
  cases k <;> rfl

/-- Settles O26: one half of X is written. -/
theorem loadsOfIndexHalves : Obligations.LoadsOfIndexHalves := fun s x k n => by
  have loadXh (v : Byte) : (Place.xh x).Written s (s.setXh x v) v ∧ Effect s (s.setXh x v) s.f s.flagQ s.memptr :=
    ⟨Place.written_xh x v (.refl s), .setXh (.refl s)⟩
  have loadXl (v : Byte) : (Place.xl x).Written s (s.setXl x v) v ∧ Effect s (s.setXl x v) s.f s.flagQ s.memptr :=
    ⟨Place.written_xl x v (.refl s), .setXl (.refl s)⟩
  rw [← State.getIndexSrc_eq]
  exact ⟨⟨_, rfl, loadXh (s.getIndexSrc x k)⟩, ⟨_, rfl, loadXl (s.getIndexSrc x k)⟩, ⟨_, rfl, loadXh n⟩,
    ⟨_, rfl, loadXl n⟩⟩

/-! ## A from I and R (R231, R232) -/

/-- The flags of LD A,I and LD A,R: those of the table, with PV and C besides. -/
theorem loadIrFlags_flags (v f : Byte) (iff2 : Bool) :
    FlagsAre (loadIrFlags v f iff2) (decide (v.toNat ≥ 128)) (decide (v = 0)) (v.getLsbD 5) false (v.getLsbD 3) iff2 false
      (flag .c f) := by
  obtain ⟨hs, hz, h5, hh, h3, hpv, hn, hc⟩ := tabAdd_flags v
  simp only [FlagsAre, loadIrFlags, flag_or, flag_and, flag_flagIf, hs, hz, h5, hh, h3, hpv, hn, hc]
  simp [flag, FlagBit.index]

/-- Settles O27: both are `loadIr`. -/
theorem loadsOfAFromIAndR : Obligations.LoadsOfAFromIAndR := fun s =>
  ⟨⟨_, rfl, rfl, loadIrFlags_flags s.i s.f s.iff2⟩, ⟨_, rfl, rfl, loadIrFlags_flags s.r s.f s.iff2⟩⟩

end Sys2Proof.Machine
end

section
/-!
PROOFS. The 16-bit loads, the stack and the exchanges (41_load16_exchange.md): O28 to O34. A word goes to a pair, to an index
register or to two bytes of memory; each obligation is put together from the lemmas of that one write and of the read
before it.
-/

namespace Sys2Proof.Machine

/-! ## Memory kept, and a word by its two bytes (R102) -/

theorem MemKeptOutside.of_mem_eq {ps : List Word} {s t : State} (h : t.mem = s.mem) : MemKeptOutside ps s t :=
  fun p _ => State.byteAt_of_mem_eq h p

theorem MemKeptOutside.memWrite {ps : List Word} {s t : State} {p : Word} (h : MemKeptOutside ps s t) (hp : p ∈ ps)
    (v : Byte) : MemKeptOutside ps s (t.memWrite p v) := fun q hq =>
  (t.byteAt_memWrite_other v (ne_of_mem_of_not_mem hp hq).symm).trans (h q hq)

/-- A word put together again from its halves in memory. -/
theorem State.wordAt_of_halves {s : State} {p w : Word} (hlow : s.byteAt p = lo8 w) (hhigh : s.byteAt (p + 1) = hi8 w) :
    s.wordAt p = w := by
  rw [State.wordAt, hlow, hhigh, ← mk16_eq_ofNat, mk16_hi8_lo8]

/-! ## The pairs (R144) -/

theorem State.getRp_eq_pairValue (s : State) (k : RegPair) : s.getRp k = pairValue s k := by cases k <;> rfl

theorem State.getQq_eq_stackValue (s : State) (k : StackPair) : s.getQq k = stackValue s k := by cases k <;> rfl

theorem stackValue_setQq (s : State) (k j : StackPair) (w : Word) :
    stackValue (s.setQq k w) j = if j = k then w else stackValue s j := by
  cases k <;> cases j <;> simp [stackValue, State.setQq, State.setBc, State.setDe, State.setHl, State.setAf]

/-! ## Word loads (R250, R251, R253, R255 to R257, R259) -/

namespace WordEffect
variable {s t : State} {f : Byte} {q : Bool} {m : Word}

theorem refl (s : State) : WordEffect s s s.f s.flagQ s.memptr := ⟨rfl, .of_mem_eq rfl⟩

theorem setRp {k : RegPair} {w : Word} (h : WordEffect s t f q m) : WordEffect s (t.setRp k w) f q m := by
  obtain ⟨hframe, hmem⟩ := h
  cases k <;> exact ⟨by rw [hframe]; rfl, hmem⟩

theorem setX {x : IndexReg} {w : Word} (h : WordEffect s t f q m) : WordEffect s (t.setX x w) f q m := by
  obtain ⟨hframe, hmem⟩ := h
  cases x <;> exact ⟨by rw [hframe]; rfl, hmem⟩

end WordEffect

/-- Settles O28: one pair or index register is written. -/
theorem wordLoads : Obligations.WordLoads := fun s k x nn =>
  have loadRp (k : RegPair) (w : Word) :
      (WordPlace.rp k).Written s (s.setRp k w) w ∧ WordEffect s (s.setRp k w) s.f s.flagQ s.memptr :=
    ⟨WordPlace.written_rp k w (fun _ => rfl) fun _ => rfl, .setRp (.refl s)⟩
  ⟨⟨_, rfl, loadRp k nn⟩,
    ⟨_, rfl, WordPlace.written_x x nn (fun _ => rfl) fun _ => rfl, .setX (.refl s)⟩,
    ⟨_, rfl, loadRp .sp s.hl⟩, ⟨_, rfl, loadRp .sp (s.getX x)⟩⟩

/-- The word at an address, and the state after the two reads and the write of MEMPTR. -/
theorem State.loadWord_eq (s : State) (nn : Word) :
    s.loadWord nn =
      (s.wordAt nn, { s with memptr := nn + 1, events := s.events ++ [.memRead nn, .memRead (nn + 1)] }) := by
  rw [State.loadWord, State.memRead16_eq]

theorem State.loadWord_fst (s : State) (nn : Word) : (s.loadWord nn).1 = s.wordAt nn := by
  rw [State.loadWord_eq]

theorem pairValue_loadWord (s : State) (nn : Word) (j : RegPair) : pairValue (s.loadWord nn).2 j = pairValue s j := by
  rw [State.loadWord_eq]
  cases j <;> rfl

theorem State.getX_loadWord (s : State) (nn : Word) (y : IndexReg) : (s.loadWord nn).2.getX y = s.getX y := by
  rw [State.loadWord_eq]
  cases y <;> rfl

theorem WordEffect.loadWord (s : State) (nn : Word) : WordEffect s (s.loadWord nn).2 s.f s.flagQ (nn + 1) := by
  rw [State.loadWord_eq]
  exact ⟨rfl, .of_mem_eq rfl⟩

/-- Settles O29: the word read goes to a pair or an index register. -/
theorem wordLoadsFromMemory : Obligations.WordLoadsFromMemory := fun s k x nn => by
  rw [← s.loadWord_fst nn]
  have loadRp (k : RegPair) (w : Word) : (WordPlace.rp k).Written s ((s.loadWord nn).2.setRp k w) w ∧
      WordEffect s ((s.loadWord nn).2.setRp k w) s.f s.flagQ (nn + 1) :=
    ⟨WordPlace.written_rp k w (pairValue_loadWord s nn) (s.getX_loadWord nn), .setRp (.loadWord s nn)⟩
  exact ⟨⟨_, rfl, loadRp .hl _⟩, ⟨_, rfl, loadRp k _⟩,
    ⟨_, rfl, WordPlace.written_x x _ (pairValue_loadWord s nn) (s.getX_loadWord nn), .setX (.loadWord s nn)⟩⟩

/-! ## Word stores (R252, R254, R258) -/

theorem State.storeWord_eq (s : State) (nn w : Word) :
    s.storeWord nn w = { s with
      mem := (s.mem.write nn.toNat (lo8 w)).write (nn + 1).toNat (hi8 w), memptr := nn + 1
      events := s.events ++ [.memWrite nn (lo8 w), .memWrite (nn + 1) (hi8 w)] } := by
  simp only [State.storeWord, State.memWrite16, State.memWrite, List.append_assoc, List.cons_append, List.nil_append]

theorem State.byteAt_storeWord_low (s : State) (nn w : Word) : (s.storeWord nn w).byteAt nn = lo8 w :=
  (State.byteAt_memWrite_other _ (hi8 w) (Word.add_one_ne nn).symm).trans (s.byteAt_memWrite_same nn (lo8 w))

theorem State.byteAt_storeWord_high (s : State) (nn w : Word) : (s.storeWord nn w).byteAt (nn + 1) = hi8 w :=
  State.byteAt_memWrite_same _ (nn + 1) (hi8 w)

theorem State.memKeptOutside_storeWord (s : State) (nn w : Word) : MemKeptOutside [nn, nn + 1] s (s.storeWord nn w) :=
  have hlow : MemKeptOutside [nn, nn + 1] s (s.memWrite nn (lo8 w)) := .memWrite (.of_mem_eq rfl) (by simp) _
  hlow.memWrite (p := nn + 1) (by simp) (hi8 w)

/-- A store of a word changes memory, the events and MEMPTR only. -/
theorem State.storeWord_frame (s : State) (nn w : Word) :
    s.storeWord nn w =
      { s with mem := (s.storeWord nn w).mem, events := (s.storeWord nn w).events, memptr := nn + 1 } := by
  rw [State.storeWord_eq]

/-- Settles O30: `storeWord`, whatever the source. -/
theorem wordStoresToMemory : Obligations.WordStoresToMemory := fun s k x nn => by
  have hlow (w : Word) : ((s.storeWord nn w).byteAt nn).toNat = w.toNat % 256 := by
    rw [s.byteAt_storeWord_low, lo8_toNat]
  have hhigh (w : Word) : ((s.storeWord nn w).byteAt (nn + 1)).toNat = w.toNat / 256 := by
    rw [s.byteAt_storeWord_high, hi8_toNat]
  have store (w : Word) := And.intro (hlow w) (And.intro (hhigh w)
    (And.intro (s.memKeptOutside_storeWord nn w) (s.storeWord_frame nn w)))
  rw [← s.getRp_eq_pairValue]
  exact ⟨⟨_, rfl, store s.hl⟩, ⟨_, rfl, store (s.getRp k)⟩, ⟨_, rfl, store (s.getX x)⟩⟩

/-! ## The stack (R262 to R267) -/

/-- Settles O31: both are `Push`. -/
theorem pushStoresTheWordBelowSp : Obligations.PushStoresTheWordBelowSp := fun s qq x => by
  rw [← s.getQq_eq_stackValue]
  exact ⟨⟨_, rfl, s.push_pushed (s.getQq qq)⟩, ⟨_, rfl, s.push_pushed (s.getX x)⟩⟩

theorem Pushed.sp_eq {s t : State} {w : Word} (h : Pushed s t w) : t.sp = s.sp - 2 := congrArg State.sp h.1

/-- A pushed word is the one at the new SP. -/
theorem Pushed.wordAt_sp {s t : State} {w : Word} (h : Pushed s t w) : t.wordAt t.sp = w := by
  have hnext : s.sp - 2 + 1 = s.sp - 1 := by bv_omega
  rw [h.sp_eq]
  obtain ⟨-, hhigh, hlow, -⟩ := h
  exact State.wordAt_of_halves hlow (hnext ▸ hhigh)

theorem State.pop_fst (s : State) : s.pop.1 = s.wordAt s.sp := by rw [State.pop_eq]

theorem State.pop_sp (s : State) : s.pop.2.sp = s.sp + 2 := by rw [State.pop_eq]

theorem stackValue_pop (s : State) (k : StackPair) : stackValue s.pop.2 k = stackValue s k := by
  rw [State.pop_eq]
  cases k <;> rfl

theorem State.getX_pop (s : State) (y : IndexReg) : s.pop.2.getX y = s.getX y := by
  rw [State.pop_eq]
  cases y <;> rfl

theorem exec_popQq (s : State) (qq : StackPair) : exec (.popQq qq) s = .next (s.pop.2.setQq qq (s.wordAt s.sp)) := by
  rw [← s.pop_fst]
  rfl

theorem exec_popX (s : State) (x : IndexReg) : exec (.popX x) s = .next (s.pop.2.setX x (s.wordAt s.sp)) := by
  rw [← s.pop_fst]
  rfl

/-- POP of a pair: what every pair holds after it, and what else it changes (R265). -/
theorem popQq_spec (s : State) (qq : StackPair) :
    ∃ t, exec (.popQq qq) s = .next t ∧
      (∀ k, stackValue t k = if k = qq then s.wordAt s.sp else stackValue s k) ∧ MemKept s t ∧
      t = { s with
        a := t.a, f := t.f, b := t.b, c := t.c, d := t.d, e := t.e, h := t.h, l := t.l
        sp := s.sp + 2, events := t.events } := by
  refine ⟨_, exec_popQq s qq, fun k => by rw [stackValue_setQq, stackValue_pop], ?_⟩
  rw [State.pop_eq]
  cases qq <;> exact ⟨.of_mem_eq rfl, rfl⟩

/-- POP of X: what both index registers hold after it, and what else it changes (R267). -/
theorem popX_spec (s : State) (x : IndexReg) :
    ∃ t, exec (.popX x) s = .next t ∧ (∀ y, t.getX y = if y = x then s.wordAt s.sp else s.getX y) ∧ MemKept s t ∧
      t = { s with ix := t.ix, iy := t.iy, sp := s.sp + 2, events := t.events } := by
  refine ⟨_, exec_popX s x, fun y => by rw [State.getX_setX, State.getX_pop], ?_⟩
  rw [State.pop_eq]
  cases x <;> exact ⟨.of_mem_eq rfl, rfl⟩

/-- A pop into a pair gives it the pushed word and puts SP back (R262, R263). -/
theorem stackValue_sp_of_pushed_of_popQq {s t u : State} {w : Word} {k : StackPair} (ht : Pushed s t w)
    (hu : exec (.popQq k) t = .next u) : stackValue u k = w ∧ u.sp = s.sp := by
  rw [exec_popQq] at hu
  obtain rfl := Host.Outcome.next.inj hu
  rw [stackValue_setQq, if_pos rfl, ht.wordAt_sp, State.setQq_sp, State.pop_sp, ht.sp_eq]
  exact ⟨rfl, BitVec.sub_add_cancel s.sp 2⟩

/-- Settles O32: POP of a pair and of X, and a pair popped after a push. -/
theorem popReadsTheWordAtSp : Obligations.PopReadsTheWordAtSp := by
  refine ⟨fun s qq x => ⟨popQq_spec s qq, popX_spec s x⟩, fun s t u qq k ht hu => ?_⟩
  obtain rfl : s.push (s.getQq qq) = t := Host.Outcome.next.inj ht
  rw [← s.getQq_eq_stackValue]
  exact stackValue_sp_of_pushed_of_popQq (s.push_pushed _) hu

/-! ## Exchanges (R270 to R274) -/

/-- Settles O33: the halves of each pair put together and taken apart again. -/
theorem exchangesOfRegisters : Obligations.ExchangesOfRegisters := fun s => by
  have hswap : (s.setDe s.hl).setHl s.de = { s with d := s.h, e := s.l, h := s.d, l := s.e } := by
    simp [State.setDe, State.setHl, State.hl, State.de]
  exact ⟨⟨_, rfl, hswap, .of_mem_eq rfl⟩, ⟨_, rfl, .of_mem_eq rfl, rfl⟩⟩

theorem State.exchangeTop_fst (s : State) (w : Word) : (s.exchangeTop w).1 = s.wordAt s.sp := by
  rw [State.exchangeTop_eq]

/-- The two bytes stored by EX (SP): the high one at SP + 1 first, then the low one at SP (R273, R274, D32). -/
theorem State.exchangeTop_mem (s : State) (w : Word) :
    (s.exchangeTop w).2.mem = ((s.memWrite (s.sp + 1) (hi8 w)).memWrite s.sp (lo8 w)).mem := rfl

/-- The write to HL or X that follows the exchange leaves memory alone, so this is what the whole instruction stores. -/
theorem stackTop_of_exchangeTop_mem {s t : State} {w : Word} (ht : t.mem = (s.exchangeTop w).2.mem) :
    t.byteAt s.sp = lo8 w ∧ t.byteAt (s.sp + 1) = hi8 w ∧ MemKeptOutside [s.sp, s.sp + 1] s t := by
  rw [State.exchangeTop_mem] at ht
  have hbyte := State.byteAt_of_mem_eq ht
  have hkept : MemKeptOutside [s.sp, s.sp + 1] s ((s.memWrite (s.sp + 1) (hi8 w)).memWrite s.sp (lo8 w)) :=
    .memWrite (.memWrite (.of_mem_eq rfl) (by simp) _) (by simp) _
  refine ⟨?_, ?_, fun p hp => (hbyte p).trans (hkept p hp)⟩
  · rw [hbyte, State.byteAt_memWrite_same]
  · rw [hbyte, State.byteAt_memWrite_other _ _ (Word.add_one_ne s.sp), State.byteAt_memWrite_same]

theorem State.getX_exchangeTop (s : State) (w : Word) (y : IndexReg) : (s.exchangeTop w).2.getX y = s.getX y := by
  rw [State.exchangeTop_eq]
  cases y <;> rfl

theorem exec_exSpHl (s : State) : exec .exSpHl s = .next ((s.exchangeTop s.hl).2.setHl (s.wordAt s.sp)) := by
  rw [← s.exchangeTop_fst s.hl]
  rfl

theorem exec_exSpX (s : State) (x : IndexReg) :
    exec (.exSpX x) s = .next ((s.exchangeTop (s.getX x)).2.setX x (s.wordAt s.sp)) := by
  rw [← s.exchangeTop_fst (s.getX x)]
  rfl

/-- Settles O34: the fields of EX AF,AF' by its definition; `exchangeTop`, and then a write to HL or X. -/
theorem exchangesOfAfAndTheStackTop : Obligations.ExchangesOfAfAndTheStackTop := by
  refine ⟨fun s => ⟨_, rfl, rfl, .of_mem_eq rfl⟩, fun s x => ⟨?_, ?_⟩⟩
  · refine ⟨_, exec_exSpHl s, stackTop_of_exchangeTop_mem rfl, mk16_hi8_lo8 _, ?_⟩
    rw [State.exchangeTop_eq]
    rfl
  · refine ⟨_, exec_exSpX s x, stackTop_of_exchangeTop_mem (State.setX_mem _ x _),
      fun y => by rw [State.getX_setX, State.getX_exchangeTop], ?_⟩
    rw [State.exchangeTop_eq]
    cases x <;> rfl

end Sys2Proof.Machine
end

section
/-!
PROOFS. The block instructions (42_block.md): O35 to O38. What each base form answers is in Laws/Instr.lean; here are the bytes
it stores, its eight flags and its frame, and the roll-back of the repeated forms on top of it.
-/

namespace Sys2Proof.Machine

/-! ## A byte by its bits, and differences -/

/-- Bit 1 moved to bit 5, where F has it (R301, R311). -/
theorem bit1_shiftLeft_4 (n : Byte) : (n &&& 0x02) <<< 4 = flagIf (n.getLsbD 1) 0x20 := by
  rw [show n &&& 0x02 = flagIf (n.getLsbD 1) 0x02 from BitVec.and_twoPow n 1]
  cases n.getLsbD 1 <;> rfl

/-- The half borrow of `a - v` is the borrow into bit 4 (R48). -/
theorem halfBorrow_eq (a v : Byte) :
    (a ^^^ v ^^^ (a - v)) &&& 0x10 = flagIf (decide (a.toNat % 16 < v.toNat % 16)) 0x10 := by
  -- bit 4 of `a = (a - v) + v` is the exclusive or of both bits and the carry out of the low halves
  have hbit : a.getLsbD 4 = ((a - v).getLsbD 4 ^^ (v.getLsbD 4 ^^ BitVec.carry 4 (a - v) v false)) := by
    rw [← BitVec.getLsbD_add (by decide), BitVec.sub_add_cancel]
  have hcarry : BitVec.carry 4 (a - v) v false = decide (a.toNat % 16 < v.toNat % 16) := by
    rw [BitVec.carry, decide_eq_decide, BitVec.toNat_sub]
    have := a.isLt
    have := v.isLt
    simp only [Bool.toNat_false]
    omega
  have hxor : (a ^^^ v ^^^ (a - v)).getLsbD 4 = decide (a.toNat % 16 < v.toNat % 16) := by
    rw [BitVec.getLsbD_xor, BitVec.getLsbD_xor, hbit, hcarry]
    simp [Bool.xor_comm, Bool.xor_left_comm]
  rw [← hxor]
  exact BitVec.and_twoPow _ 4

/-- PV of the I/O forms is the even parity of the byte (R19). -/
theorem parity_eq (v : Byte) : parity v = decide (ones v % 2 = 0) := by
  revert v
  decide

/-- A difference taken in the integers, modulo a power of 2 (R12). -/
theorem ofInt_sub (w : Nat) (x y : Int) : BitVec.ofInt w (x - y) = BitVec.ofInt w x - BitVec.ofInt w y := by
  rw [Int.sub_eq_add_neg, BitVec.ofInt_add, BitVec.ofInt_neg, BitVec.sub_eq_add_neg]

/-! ## The flags (R301, R311, R320) -/

theorem flags_of_eq_transferFlags {a v f g : Byte} {more : Bool} (h : g = transferFlags a v f more) :
    let n : Byte := BitVec.ofNat 8 (v.toNat + a.toNat)
    FlagsAre g (flag .s f) (flag .z f) (n.getLsbD 1) false (n.getLsbD 3) more false (flag .c f) := by
  have hn : BitVec.ofNat 8 (v.toNat + a.toNat) = v + a := by simp [BitVec.ofNat_add]
  simp only [h, FlagsAre, transferFlags, hn, bit1_shiftLeft_4, flag_or, flag_and, flag_flagIf]
  simp [flag, FlagBit.index]

theorem flags_of_eq_compareFlags {a v f g : Byte} {more : Bool} (h : g = compareFlags a v f more) :
    let half := decide (a.toNat % 16 < v.toNat % 16)
    let res : Byte := BitVec.ofInt 8 ((a.toNat : Int) - v.toNat)
    let n : Byte := BitVec.ofInt 8 ((a.toNat : Int) - v.toNat - half.toNat)
    FlagsAre g (decide (res.toNat ≥ 128)) (decide (a = v)) (n.getLsbD 1) half (n.getLsbD 3) more true
      (flag .c f) := by
  intro half res n
  have hres : res = a - v := by simp [res, ofInt_sub]
  have hn : n = a - v - flagIf half 0x10 >>> 4 := by
    have hhalf : BitVec.ofInt 8 (half.toNat : Int) = flagIf half 0x10 >>> 4 := by cases half <;> rfl
    rw [← hres, ← hhalf]
    exact ofInt_sub 8 _ _
  have hz : (a - v == 0) = decide (a = v) := by
    rw [beq_eq_decide, decide_eq_decide, sub_eq_zero]
  rw [h, hres, hn]
  simp only [FlagsAre, compareFlags, halfBorrow_eq, hz, bit1_shiftLeft_4, ← flag_s_eq, flag_or, flag_and, flag_flagIf]
  simp [flag, FlagBit.index, half]

theorem flags_of_eq_ioFlags {b v g : Byte} {k : Nat} (h : g = ioFlags b v k) :
    FlagsAre g (decide (b.toNat ≥ 128)) (decide (b = 0)) (b.getLsbD 5) (decide (k > 255)) (b.getLsbD 3)
      (decide (ones (BitVec.ofNat 8 (k % 8) ^^^ b) % 2 = 0)) (decide (v.toNat ≥ 128)) (decide (k > 255)) := by
  have hmod : BitVec.ofNat 8 k &&& 0x07 = BitVec.ofNat 8 (k % 8) := by
    rw [← Nat.and_two_pow_sub_one_eq_mod k 3, BitVec.ofNat_and]
    rfl
  obtain ⟨hs, hz, h5, hh, h3, hpv, hn, hc⟩ := tabAdd_flags b
  simp only [h, FlagsAre, ioFlags, hmod, parity_eq, ← flag_s_eq v, flag_or, flag_flagIf, hs, hz, h5, hh, h3, hpv, hn, hc]
  simp [flag, FlagBit.index]

/-! ## One byte written -/

/-- What a memory shows by byte that is the old one but for one write, however the rest of the state changed. -/
theorem byteWritten_of_mem_eq_memWrite {s t : State} {p : Word} {v : Byte} (h : t.mem = (s.memWrite p v).mem) :
    t.byteAt p = v ∧ MemKeptOutside [p] s t := by
  have hbyte := State.byteAt_of_mem_eq h
  have hkept : MemKeptOutside [p] s (s.memWrite p v) := .memWrite (.of_mem_eq rfl) (List.mem_singleton_self p) v
  exact ⟨(hbyte p).trans (s.byteAt_memWrite_same p v), fun q hq => (hbyte q).trans (hkept q hq)⟩

/-! ## LDI and LDD (R301, R302) -/

/-- What LDI and LDD do to memory: one byte is written, at DE. -/
theorem State.blockTransfer_mem (s : State) (δ : Word) :
    (s.blockTransfer δ).mem = (s.memWrite s.de (s.byteAt s.hl)).mem := rfl

theorem State.blockTransfer_pairs (s : State) (δ : Word) :
    let t := s.blockTransfer δ
    t.hl = s.hl + δ ∧ t.de = s.de + δ ∧ t.bc = s.bc - 1 := by
  rw [State.blockTransfer_eq]
  exact ⟨mk16_hi8_lo8 _, mk16_hi8_lo8 _, mk16_hi8_lo8 _⟩

theorem State.blockTransfer_f (s : State) (δ : Word) :
    (s.blockTransfer δ).f = transferFlags s.a (s.byteAt s.hl) s.f (decide (s.bc ≠ 1)) := by
  rw [State.blockTransfer_eq, Word.sub_one_bne_zero]

theorem State.blockTransfer_frame (s : State) (δ : Word) :
    let t := s.blockTransfer δ
    t = { s with
      b := t.b, c := t.c, d := t.d, e := t.e, h := t.h, l := t.l, f := t.f, flagQ := true
      mem := t.mem, events := t.events } := by
  rw [State.blockTransfer_eq]

/-- Settles O35: both are `State.blockTransfer`. -/
theorem blockTransfer : Obligations.BlockTransfer := fun s => by
  constructor
  case left | right =>
    obtain ⟨hbyte, hkept⟩ := byteWritten_of_mem_eq_memWrite (s.blockTransfer_mem _)
    obtain ⟨hhl, hde, hbc⟩ := s.blockTransfer_pairs _
    exact ⟨_, rfl, hbyte, hkept, hhl, hde, hbc, s.blockTransfer_frame _,
      flags_of_eq_transferFlags (s.blockTransfer_f _)⟩

/-! ## CPI and CPD (R311, R312) -/

theorem State.blockCompare_mem (s : State) (δ : Word) : (s.blockCompare δ).mem = s.mem := rfl

theorem State.blockCompare_pairs (s : State) (δ : Word) :
    let t := s.blockCompare δ
    t.hl = s.hl + δ ∧ t.bc = s.bc - 1 := by
  rw [State.blockCompare_eq]
  exact ⟨mk16_hi8_lo8 _, mk16_hi8_lo8 _⟩

theorem State.blockCompare_f (s : State) (δ : Word) :
    (s.blockCompare δ).f = compareFlags s.a (s.byteAt s.hl) s.f (decide (s.bc ≠ 1)) := by
  rw [State.blockCompare_eq, Word.sub_one_bne_zero]

theorem State.blockCompare_frame (s : State) (δ : Word) :
    let t := s.blockCompare δ
    t = { s with
      b := t.b, c := t.c, h := t.h, l := t.l, f := t.f, flagQ := true, memptr := s.memptr + δ
      events := t.events } := by
  rw [State.blockCompare_eq]

/-- Settles O36: both are `State.blockCompare`, which writes no memory. -/
theorem blockCompare : Obligations.BlockCompare := fun s => by
  constructor
  case left | right =>
    obtain ⟨hhl, hbc⟩ := s.blockCompare_pairs _
    exact ⟨_, rfl, .of_mem_eq (s.blockCompare_mem _), hhl, hbc, s.blockCompare_frame _,
      flags_of_eq_compareFlags (s.blockCompare_f _)⟩

/-! ## INI, IND, OUTI and OUTD (R320 to R322, R325, R326) -/

/-- What INI and IND do to memory: the answer of the port is written at HL. -/
theorem State.blockIn_mem (s : State) (δ : Word) :
    (s.blockIn δ).mem = (s.memWrite s.hl (s.portAnswer s.bc)).mem := rfl

theorem State.blockIn_hl (s : State) (δ : Word) : (s.blockIn δ).hl = s.hl + δ := by
  rw [State.blockIn_eq]
  exact mk16_hi8_lo8 _

theorem State.blockIn_f (s : State) (δ : Word) :
    (s.blockIn δ).f =
      ioFlags (s.b - 1) (s.portAnswer s.bc) ((s.portAnswer s.bc).toNat + (s.c + lo8 δ).toNat) := by
  rw [State.blockIn_eq]

theorem State.blockIn_frame (s : State) (δ : Word) :
    let t := s.blockIn δ
    t = { s with
      b := s.b - 1, h := t.h, l := t.l, f := t.f, flagQ := true, memptr := s.bc + δ, mem := t.mem
      portIn := s.portIn.tail, portReads := s.portReads + 1
      events := s.events ++ [.portRead s.bc (s.portAnswer s.bc), .memWrite s.hl (s.portAnswer s.bc)] } := by
  rw [State.blockIn_eq]

theorem State.blockOut_mem (s : State) (δ : Word) : (s.blockOut δ).mem = s.mem := rfl

theorem State.blockOut_hl (s : State) (δ : Word) : (s.blockOut δ).hl = s.hl + δ := by
  rw [State.blockOut_eq]
  exact mk16_hi8_lo8 _

theorem State.blockOut_f (s : State) (δ : Word) :
    (s.blockOut δ).f = ioFlags (s.b - 1) (s.byteAt s.hl) ((s.byteAt s.hl).toNat + (s.blockOut δ).l.toNat) := by
  rw [State.blockOut_eq]

theorem State.blockOut_frame (s : State) (δ : Word) :
    let t := s.blockOut δ
    t = { s with
      b := s.b - 1, h := t.h, l := t.l, f := t.f, flagQ := true, memptr := mk16 (s.b - 1) s.c + δ
      events := s.events ++ [.memRead s.hl, .portWrite (mk16 (s.b - 1) s.c) (s.byteAt s.hl)] } := by
  rw [State.blockOut_eq]

/-- Settles O38: `State.blockIn` and `State.blockOut`, each in both directions. -/
theorem blockInputAndOutput : Obligations.BlockInputAndOutput := fun s => by
  refine ⟨?ini, ?ind, ?outi, ?outd⟩
  case ini | ind =>
    obtain ⟨hbyte, hkept⟩ := byteWritten_of_mem_eq_memWrite (s.blockIn_mem _)
    refine ⟨_, rfl, hbyte, hkept, s.blockIn_hl _, s.blockIn_frame _, flags_of_eq_ioFlags ?_⟩
    simp only [State.blockIn_f, lo8_one, lo8_neg_one, State.bc]
  case outi | outd =>
    exact ⟨_, rfl, .of_mem_eq (s.blockOut_mem _), s.blockOut_hl _, s.blockOut_frame _,
      flags_of_eq_ioFlags (s.blockOut_f _)⟩

/-! ## The repeated forms (R303, R304, R308, R313, R314, R323, R324, R327, R328) -/

/-- MEMPTR after the roll-back is the new PC + 1 (R308). -/
theorem Word.sub_two_add_one (p : Word) : p - 2 + 1 = p - 1 := by bv_omega

theorem State.blockTransfer_pc (s : State) (δ : Word) : (s.blockTransfer δ).pc = s.pc := by rw [State.blockTransfer_eq]

theorem State.blockCompare_pc (s : State) (δ : Word) : (s.blockCompare δ).pc = s.pc := by rw [State.blockCompare_eq]

theorem State.blockIn_pc (s : State) (δ : Word) : (s.blockIn δ).pc = s.pc := by rw [State.blockIn_eq]

theorem State.blockOut_pc (s : State) (δ : Word) : (s.blockOut δ).pc = s.pc := by rw [State.blockOut_eq]

theorem State.transferRepeat_eq (s : State) (δ : Word) :
    s.transferRepeat δ =
      (let t := s.blockTransfer δ
       if t.bc = 0 then t
       else { t with pc := s.pc - 2, memptr := s.pc - 2 + 1, events := t.events ++ [.contend s.de 5] }) := by
  simp only [State.transferRepeat, bne_iff_ne, ne_eq, ite_not, State.rollBackMemptr_eq, State.blockTransfer_pc,
    Word.sub_two_add_one]

theorem State.compareRepeat_eq (s : State) (δ : Word) :
    s.compareRepeat δ =
      (let t := s.blockCompare δ
       if t.bc = 0 ∨ flag .z t.f = true then t
       else { t with pc := s.pc - 2, memptr := s.pc - 2 + 1, events := t.events ++ [.contend s.hl 5] }) := by
  simp only [State.compareRepeat, Bool.and_eq_true, bne_iff_ne, ne_eq, Bool.not_eq_true', ← Bool.not_eq_true, ← not_or,
    ite_not, State.rollBackMemptr_eq, State.blockCompare_pc, Word.sub_two_add_one]

theorem State.inRepeat_eq (s : State) (δ : Word) :
    s.inRepeat δ =
      (let t := s.blockIn δ
       if t.b = 0 then t else { t with pc := s.pc - 2, events := t.events ++ [.contend s.hl 5] }) := by
  simp only [State.inRepeat, bne_iff_ne, ne_eq, ite_not, State.rollBack_eq, State.blockIn_pc]

theorem State.outRepeat_eq (s : State) (δ : Word) :
    s.outRepeat δ =
      (let t := s.blockOut δ
       if t.b = 0 then t else { t with pc := s.pc - 2, events := t.events ++ [.contend t.bc 5] }) := by
  simp only [State.outRepeat, bne_iff_ne, ne_eq, ite_not, State.rollBack_eq, State.blockOut_pc]

/-- Settles O37: each repeated form is its base form and then, if the continuer holds, the roll-back. -/
theorem blockRepeats : Obligations.BlockRepeats := fun s =>
  have moves (δ : Word) := congrArg Host.Outcome.next (s.transferRepeat_eq δ)
  have compares (δ : Word) := congrArg Host.Outcome.next (s.compareRepeat_eq δ)
  have inputs (δ : Word) := congrArg Host.Outcome.next (s.inRepeat_eq δ)
  have outputs (δ : Word) := congrArg Host.Outcome.next (s.outRepeat_eq δ)
  ⟨⟨_, rfl, moves 1⟩, ⟨_, rfl, moves (-1)⟩, ⟨_, rfl, compares 1⟩, ⟨_, rfl, compares (-1)⟩, ⟨_, rfl, inputs 1⟩,
    ⟨_, rfl, inputs (-1)⟩, ⟨_, rfl, outputs 1⟩, ⟨_, rfl, outputs (-1)⟩⟩

end Sys2Proof.Machine
end

section
/-!
PROOFS. Layers under the arithmetic of 43_alu8.md: carries, borrows and signed overflow of words of any width; the flags of
each 8-bit operation of Machine/Flags.lean; a read-modify-write form as a load and a store of its place.
-/

namespace Sys2Proof.Machine

/-! ## Sums and differences with a carry-in, at any width (R48, R350, R351) -/

section Carry
variable {w : Nat} (a x : BitVec w) (c : Bool)

/-- A sum taken in the natural numbers, modulo a power of 2 (R12). -/
theorem ofNat_sum_eq :
    BitVec.ofNat w (a.toNat + x.toNat + c.toNat) = a + x + (BitVec.ofBool c).setWidth w := by
  apply BitVec.eq_of_toNat_eq
  simp

/-- A difference is a sum: the complement of the subtrahend is added, and the borrow goes in as its opposite. -/
theorem ofInt_difference_eq :
    BitVec.ofInt w ((a.toNat : Int) - x.toNat - c.toNat) = BitVec.ofNat w (a.toNat + (~~~x).toNat + (!c).toNat) := by
  rw [ofInt_sub, ofInt_sub, BitVec.ofNat_add, BitVec.ofNat_add, BitVec.ofNat_toNat, BitVec.ofNat_toNat]
  cases c <;> simp [BitVec.not_eq_neg_add, BitVec.sub_eq_add_neg, BitVec.add_assoc]

/-- The carry into bit i shows in the operands and the sum. -/
theorem getLsbD_xor_sum {i : Nat} (hi : i < w) :
    (a ^^^ x ^^^ BitVec.ofNat w (a.toNat + x.toNat + c.toNat)).getLsbD i =
      decide (a.toNat % 2 ^ i + x.toNat % 2 ^ i + c.toNat ≥ 2 ^ i) := by
  rw [ofNat_sum_eq, BitVec.getLsbD_xor, BitVec.getLsbD_xor, BitVec.getLsbD_add_add_bool hi, ← BitVec.carry]
  simp [Bool.xor_comm, Bool.xor_left_comm]

theorem toNat_not_mod {i : Nat} (hi : i ≤ w) : (~~~x).toNat % 2 ^ i = 2 ^ i - 1 - x.toNat % 2 ^ i := by
  simpa using congrArg BitVec.toNat (BitVec.setWidth_not (x := x) hi)

/-- The borrow into bit i shows in the operands and the difference: it is the carry that the complement does not give. -/
theorem getLsbD_xor_difference {i : Nat} (hi : i < w) :
    (a ^^^ x ^^^ BitVec.ofInt w ((a.toNat : Int) - x.toNat - c.toNat)).getLsbD i =
      decide (a.toNat % 2 ^ i < x.toNat % 2 ^ i + c.toNat) := by
  have hborrow : a.toNat % 2 ^ i + (2 ^ i - 1 - x.toNat % 2 ^ i) + (!c).toNat ≥ 2 ^ i ↔
      ¬ a.toNat % 2 ^ i < x.toNat % 2 ^ i + c.toNat := by
    have := Nat.mod_lt x.toNat (Nat.two_pow_pos i)
    have : (!c).toNat + c.toNat = 1 := by cases c <;> rfl
    omega
  have hcarry := getLsbD_xor_sum a (~~~x) (!c) hi
  rw [← ofInt_difference_eq, toNat_not_mod x hi.le, decide_eq_decide.mpr hborrow, decide_not, BitVec.getLsbD_xor,
    BitVec.getLsbD_xor, BitVec.getLsbD_not, decide_eq_true hi, Bool.true_and, Bool.xor_not, Bool.not_xor,
    Bool.not_inj_iff] at hcarry
  rwa [BitVec.getLsbD_xor, BitVec.getLsbD_xor]

/-- A sum of words is the sum of their numbers, or 2 ^ w less. -/
theorem toNat_ofNat_sum :
    let r := BitVec.ofNat w (a.toNat + x.toNat + c.toNat)
    r.toNat = a.toNat + x.toNat + c.toNat ∨ r.toNat + 2 ^ w = a.toNat + x.toNat + c.toNat := by
  have := a.isLt
  have := x.isLt
  have := c.toNat_le
  simp only [BitVec.toNat_ofNat]
  by_cases h : a.toNat + x.toNat + c.toNat < 2 ^ w
  · exact .inl (Nat.mod_eq_of_lt h)
  · rw [Nat.mod_eq_sub_mod (by omega), Nat.mod_eq_of_lt (by omega)]
    omega

/-- The overflow of a signed sum: both operands have one sign and the sum has the other (R350). -/
theorem msb_overflow_sum (hw : 0 < w) :
    ((a ^^^ ~~~x) &&& (a ^^^ BitVec.ofNat w (a.toNat + x.toNat + c.toNat))).msb =
      decide (a.toInt + x.toInt + c.toNat ≥ 2 ^ (w - 1) ∨ a.toInt + x.toInt + c.toNat < -2 ^ (w - 1)) := by
  obtain ⟨n, rfl⟩ : ∃ n, w = n + 1 := Nat.exists_eq_add_one.mpr hw
  have hsum := toNat_ofNat_sum a x c
  generalize BitVec.ofNat (n + 1) (a.toNat + x.toNat + c.toNat) = r at hsum ⊢
  have hpow : (2 : Int) ^ (n + 1 - 1) = ((2 ^ n : Nat) : Int) := (Nat.cast_pow 2 n).symm
  have ha := a.isLt
  have hx := x.isLt
  have hc := c.toNat_le
  rw [BitVec.msb_and, BitVec.msb_xor, BitVec.msb_xor, BitVec.msb_not, hpow, Bool.eq_iff_iff, decide_eq_true_iff]
  simp only [BitVec.msb_eq_decide, BitVec.toInt_eq_toNat_cond, Nat.add_sub_cancel, Nat.pow_succ, hw, decide_true,
    Bool.true_and, Bool.and_eq_true, bne_iff_ne, ne_eq, decide_eq_decide, ← decide_not] at hsum ha hx ⊢
  split_ifs <;> omega

theorem toInt_not_eq (hw : 0 < w) : (~~~x).toInt = -x.toInt - 1 := by
  have hx := x.isLt
  have hnat : ((2 ^ w - 1 - x.toNat : Nat) : Int) = (2 ^ w : Nat) - 1 - x.toNat := by omega
  rw [BitVec.toInt_eq_msb_cond, BitVec.toInt_eq_msb_cond, BitVec.msb_not, BitVec.toNat_not, decide_eq_true hw, hnat]
  cases x.msb <;> simp <;> omega

/-- The overflow of a signed difference: the operands differ in sign and so do the minuend and the difference (R351). -/
theorem msb_overflow_difference (hw : 0 < w) :
    ((a ^^^ x) &&& (a ^^^ BitVec.ofInt w ((a.toNat : Int) - x.toNat - c.toNat))).msb =
      decide (a.toInt - x.toInt - c.toNat ≥ 2 ^ (w - 1) ∨ a.toInt - x.toInt - c.toNat < -2 ^ (w - 1)) := by
  have hsum : a.toInt + (~~~x).toInt + (!c).toNat = a.toInt - x.toInt - c.toNat := by
    have : (!c).toNat + c.toNat = 1 := by cases c <;> rfl
    rw [toInt_not_eq x hw]
    omega
  have h := msb_overflow_sum a (~~~x) (!c) hw
  rwa [← ofInt_difference_eq, BitVec.not_not, hsum] at h

end Carry

/-! ## The flags of the 8-bit operations (R350 to R355) -/

theorem halfCarry_sum (a x : Byte) (c : Bool) :
    (a ^^^ x ^^^ BitVec.ofNat 8 (a.toNat + x.toNat + c.toNat)) &&& 0x10 =
      flagIf (decide (a.toNat % 16 + x.toNat % 16 + c.toNat ≥ 16)) 0x10 := by
  have hbit := getLsbD_xor_sum a x c (i := 4) (by decide)
  exact hbit ▸ BitVec.and_twoPow _ 4

theorem halfBorrow_difference (a x : Byte) (c : Bool) :
    (a ^^^ x ^^^ BitVec.ofInt 8 ((a.toNat : Int) - x.toNat - c.toNat)) &&& 0x10 =
      flagIf (decide (a.toNat % 16 < x.toNat % 16 + c.toNat)) 0x10 := by
  have hbit := getLsbD_xor_difference a x c (i := 4) (by decide)
  exact hbit ▸ BitVec.and_twoPow _ 4

theorem and_0x80_bne_zero (v : Byte) : (v &&& 0x80 != 0) = v.msb := by
  rw [show v &&& 0x80 = if v.msb then 0x80 else 0 from BitVec.and_twoPow v 7]
  cases v.msb <;> rfl

theorem add8_flags (a x : Byte) (c : Bool) : SumFlags a x c (add8 a x c).2 := by
  obtain ⟨hs, hz, h5, hh, h3, hpv, hn, hc⟩ := tabAdd_flags (BitVec.ofNat 8 (a.toNat + x.toNat + c.toNat))
  simp only [SumFlags, FlagsAre, add8, halfCarry_sum, and_0x80_bne_zero, msb_overflow_sum a x c (by decide), flag_or,
    flag_flagIf, hs, hz, h5, hh, h3, hpv, hn, hc]
  simp [flag, FlagBit.index, Nat.lt_iff_add_one_le]

theorem sub8_flags (a x : Byte) (c : Bool) : DiffFlags a x c (sub8 a x c).1 (sub8 a x c).2 := by
  obtain ⟨hs, hz, h5, hh, h3, hpv, hn, hc⟩ := tabAdd_flags (BitVec.ofInt 8 ((a.toNat : Int) - x.toNat - c.toNat))
  have borrow : decide ((a.toNat : Int) - x.toNat - c.toNat < 0) = decide (a.toNat < x.toNat + c.toNat) :=
    decide_eq_decide.mpr (by omega)
  simp only [DiffFlags, FlagsAre, sub8, tabSub, halfBorrow_difference, and_0x80_bne_zero,
    msb_overflow_difference a x c (by decide), borrow, flag_or, flag_flagIf, hs, hz, h5, hh, h3, hpv, hn, hc]
  simp [flag, FlagBit.index]

/-- The flags of a comparison are those of the difference, but for 5 and 3 from the operand (R353). -/
theorem cp8_flags (a x : Byte) : DiffFlags a x false x (cp8 a x).2 := by
  obtain ⟨hs, hz, h5, hh, h3, hpv, hn, hc⟩ := sub8_flags a x false
  simp only [DiffFlags, FlagsAre, cp8, flag_or, flag_and, hs, hz, h5, hh, h3, hpv, hn, hc]
  simp [flag, FlagBit.index]

/-- The table of S, Z, 5, 3 and parity (R49). -/
theorem tabAddP_flags (v : Byte) : ValueFlags v false false false (tabAddP v) := by
  obtain ⟨hs, hz, h5, hh, h3, hpv, hn, hc⟩ := tabAdd_flags v
  simp only [ValueFlags, FlagsAre, tabAddP, parity_eq, flag_or, flag_flagIf, hs, hz, h5, hh, h3, hpv, hn, hc]
  simp [flag, FlagBit.index]

/-- The table with H besides, as AND sets it (R352). -/
theorem tabAddP_or_h_flags (v : Byte) : ValueFlags v true false false (tabAddP v ||| 0x10) := by
  obtain ⟨hs, hz, h5, hh, h3, hpv, hn, hc⟩ := tabAddP_flags v
  simp only [ValueFlags, FlagsAre, flag_or, hs, hz, h5, hh, h3, hpv, hn, hc]
  simp [flag, FlagBit.index]

theorem inc8_flags (v f : Byte) :
    let r := (inc8 v f).1
    FlagsAre (inc8 v f).2 (decide (r.toNat ≥ 128)) (decide (r = 0)) (r.getLsbD 5) (decide (v.toNat % 16 = 15))
      (r.getLsbD 3) (decide (v.toNat = 127)) false (flag .c f) := by
  obtain ⟨hs, hz, h5, hh, h3, hpv, hn, hc⟩ := tabAdd_flags (v + 1)
  have half : ∀ v : Byte, ((v + 1) &&& 0x0F == 0x00) = decide (v.toNat % 16 = 15) := by decide
  have overflow : ∀ v : Byte, (v + 1 == 0x80) = decide (v.toNat = 127) := by decide
  simp only [FlagsAre, inc8, half, overflow, flag_or, flag_and, flag_flagIf, hs, hz, h5, hh, h3, hpv, hn, hc]
  simp [flag, FlagBit.index]

theorem dec8_flags (v f : Byte) :
    let r := (dec8 v f).1
    FlagsAre (dec8 v f).2 (decide (r.toNat ≥ 128)) (decide (r = 0)) (r.getLsbD 5) (decide (v.toNat % 16 = 0))
      (r.getLsbD 3) (decide (v.toNat = 128)) true (flag .c f) := by
  obtain ⟨hs, hz, h5, hh, h3, hpv, hn, hc⟩ := tabAdd_flags (v - 1)
  have half : ∀ v : Byte, ((v - 1) &&& 0x0F == 0x0F) = decide (v.toNat % 16 = 0) := by decide
  have overflow : ∀ v : Byte, (v - 1 == 0x7F) = decide (v.toNat = 128) := by decide
  simp only [FlagsAre, dec8, tabSub, half, overflow, flag_or, flag_and, flag_flagIf, hs, hz, h5, hh, h3, hpv, hn, hc]
  simp [flag, FlagBit.index]

/-! ## A read-modify-write form as a load and a store of its place (R371, R373, R458) -/

/-- The state after the value of the place is read. -/
def Place.loaded (p : Place) (s : State) : State :=
  match p with
  | .r _ | .xh _ | .xl _ => s
  | .hl => s.readHl.2
  | .xd x d | .xdr x d _ => (s.readXd x d).2

/-- `u` with `v` in the place; the place's address is the one it has in `s`. -/
def Place.stored (p : Place) (s u : State) (v : Byte) : State :=
  match p with
  | .r k => u.setR8 k v
  | .hl => u.memWrite s.hl v
  | .xh x => u.setXh x v
  | .xl x => u.setXl x v
  | .xd x d => u.memWrite (s.ea x d) v
  | .xdr x d k => (u.memWrite (s.ea x d) v).setR8 k v

theorem Place.sameOperands_loaded (p : Place) (s : State) : SameOperands s (p.loaded s) := by
  cases p with
  | r _ | xh _ | xl _ => exact .refl s
  | hl => exact .emit (.refl s) _
  | xd x d | xdr x d _ => exact .emit (.indexed (.refl s) x d) _

theorem Place.written_stored {s u : State} (p : Place) (v : Byte) (h : SameOperands s u) :
    p.Written s (p.stored s u v) v := by
  cases p with
  | r k => exact Place.written_r k v h
  | hl => exact Place.written_hl v h
  | xh x => exact Place.written_xh x v h
  | xl x => exact Place.written_xl x v h
  | xd x d => exact Place.written_xd x d v h
  | xdr x d k => exact Place.written_xdr x d k v h

namespace Effect
variable {s t : State} {f : Byte} {q : Bool} {m : Word}

theorem f_eq (h : Effect s t f q m) : t.f = f := congrArg State.f h

theorem setFlags {g : Byte} (h : Effect s t f q m) : Effect s (t.setFlags g) g true m := by
  rw [Effect, h]; rfl

theorem loaded (s : State) (p : Place) : Effect s (p.loaded s) s.f s.flagQ (p.memptr s) := by
  cases p with
  | r _ | xh _ | xl _ => exact .refl s
  | hl => exact .emit (.refl s)
  | xd _ _ | xdr _ _ _ => exact .emit (.setMemptr (.refl s))

theorem stored {p : Place} {v : Byte} (h : Effect s t f q m) : Effect s (p.stored s t v) f q m := by
  cases p with
  | r _ => exact h.setR8
  | hl | xd _ _ => exact h.memWrite
  | xh _ => exact h.setXh
  | xl _ => exact h.setXl
  | xdr _ _ _ => exact h.memWrite.setR8

end Effect

/-- An instruction that reads a place, writes F with flagQ and then stores to the place. -/
theorem Place.answers_of_eq_stored {s : State} {p : Place} {f v : Byte} {r : Result}
    (h : r = .next (p.stored s ((p.loaded s).setFlags f) v)) :
    ∃ t, r = .next t ∧ p.Written s t v ∧ Effect s t t.f true (p.memptr s) ∧ t.f = f := by
  have effect : Effect s (p.stored s ((p.loaded s).setFlags f) v) f true (p.memptr s) := .stored (.setFlags (.loaded s p))
  exact ⟨_, h, p.written_stored v (.setFlags (p.sameOperands_loaded s) f), effect.f_eq.symm ▸ effect, effect.f_eq⟩

end Sys2Proof.Machine
end

section
/-!
PROOFS. 8-bit arithmetic and logic (43_alu8.md): O39 to O45. Each instruction writes the value and the flags that its
operation of Machine/Flags.lean computes; one lemma for the accumulator operations and one each for INC and DEC cover all
operand forms.
-/

namespace Sys2Proof.Machine

/-! ## The accumulator operations in their six forms (R356, R360 to R367) -/

/-- What an accumulator operation answers in any of its forms. -/
theorem exec_alu (s : State) (op : AluOp) (p : AluForm) :
    let o := op.compute s.a (p.value s) (flag .c s.f)
    ∃ evs, exec (p.instr op) s =
      .next { s with a := o.1, f := o.2, flagQ := true, memptr := p.memptr s, events := evs } := by
  cases p with
  | r _ | hl | n _ | xd _ _ | xh _ | xl _ => cases op <;> exact ⟨_, rfl⟩

theorem exec_alu_written (s : State) (op : AluOp) (p : AluForm) :
    let o := op.compute s.a (p.value s) (flag .c s.f)
    ∃ t, exec (p.instr op) s = .next t ∧ (Place.r .a).Written s t o.1 ∧ Effect s t t.f true (p.memptr s) ∧
      t.f = o.2 := by
  intro o
  obtain ⟨evs, ht⟩ := exec_alu s op p
  have operands : SameOperands s { s with f := o.2, flagQ := true, memptr := p.memptr s, events := evs } :=
    ⟨fun j => by cases j <;> rfl, fun y => by cases y <;> rfl, rfl⟩
  exact ⟨_, ht, Place.written_r .a o.1 operands, rfl, rfl⟩

/-- Settles O39: both are `add8`. -/
theorem addAndAdc : Obligations.AddAndAdc := by
  intro s p
  obtain ⟨t, ht, hw, he, hf⟩ := exec_alu_written s .add p
  obtain ⟨u, hu, hwu, heu, hfu⟩ := exec_alu_written s .adc p
  exact ⟨⟨t, ht, hw, he, hf ▸ add8_flags s.a (p.value s) false⟩,
    ⟨u, hu, hwu, heu, hfu ▸ add8_flags s.a (p.value s) (flag .c s.f)⟩⟩

/-- Settles O40: both are `sub8`. -/
theorem subAndSbc : Obligations.SubAndSbc := by
  intro s p
  obtain ⟨t, ht, hw, he, hf⟩ := exec_alu_written s .sub p
  obtain ⟨u, hu, hwu, heu, hfu⟩ := exec_alu_written s .sbc p
  exact ⟨⟨t, ht, hw, he, hf ▸ sub8_flags s.a (p.value s) false⟩,
    ⟨u, hu, hwu, heu, hfu ▸ sub8_flags s.a (p.value s) (flag .c s.f)⟩⟩

/-- Settles O41: the flags are the table's, with H for AND. -/
theorem andXorOr : Obligations.AndXorOr := by
  intro s p
  obtain ⟨t, ht, hw, he, hf⟩ := exec_alu_written s .and p
  obtain ⟨u, hu, hwu, heu, hfu⟩ := exec_alu_written s .xor p
  obtain ⟨v, hv, hwv, hev, hfv⟩ := exec_alu_written s .or p
  exact ⟨⟨t, _, ht, fun _ _ => BitVec.getLsbD_and, hw, he, hf ▸ tabAddP_or_h_flags (s.a &&& p.value s)⟩,
    ⟨u, _, hu, fun _ _ => BitVec.getLsbD_xor, hwu, heu, hfu ▸ tabAddP_flags (s.a ^^^ p.value s)⟩,
    ⟨v, _, hv, fun _ _ => BitVec.getLsbD_or, hwv, hev, hfv ▸ tabAddP_flags (s.a ||| p.value s)⟩⟩

/-- Settles O42: `cp8` keeps A. -/
theorem compareWithAccumulator : Obligations.CompareWithAccumulator := by
  intro s p
  obtain ⟨evs, ht⟩ := exec_alu s .cp p
  exact ⟨_, ht, .of_mem_eq rfl, cp8_flags s.a (p.value s), rfl⟩

/-! ## INC and DEC (R370 to R377) -/

theorem exec_inc (s : State) (p : IncForm) :
    let o := inc8 (p.place.value s) s.f
    ∃ t, exec p.inc s = .next t ∧ p.place.Written s t o.1 ∧ Effect s t t.f true (p.place.memptr s) ∧ t.f = o.2 :=
  Place.answers_of_eq_stored (by cases p <;> rfl)

theorem exec_dec (s : State) (p : IncForm) :
    let o := dec8 (p.place.value s) s.f
    ∃ t, exec p.dec s = .next t ∧ p.place.Written s t o.1 ∧ Effect s t t.f true (p.place.memptr s) ∧ t.f = o.2 :=
  Place.answers_of_eq_stored (by cases p <;> rfl)

theorem inc8_fst (v f : Byte) : (inc8 v f).1 = BitVec.ofNat 8 (v.toNat + 1) := by
  simp [inc8, BitVec.ofNat_add]

theorem dec8_fst (v f : Byte) : (dec8 v f).1 = BitVec.ofNat 8 (v.toNat + 255) := by
  rw [BitVec.ofNat_add, BitVec.ofNat_toNat, BitVec.setWidth_eq]
  exact BitVec.sub_eq_add_neg v 1

/-- Settles O43: the place gets what `inc8` or `dec8` makes of its value. -/
theorem incAndDecBytes : Obligations.IncAndDecBytes := by
  intro s p v
  rw [← inc8_fst v s.f, ← dec8_fst v s.f]
  obtain ⟨t, ht, hw, he, hf⟩ := exec_inc s p
  obtain ⟨u, hu, hwu, heu, hfu⟩ := exec_dec s p
  exact ⟨⟨t, ht, hw, he, hf ▸ inc8_flags v s.f⟩, ⟨u, hu, hwu, heu, hfu ▸ dec8_flags v s.f⟩⟩

/-! ## CPL (R381) -/

theorem cpl_flags (a f : Byte) :
    let r := (cpl a f).1
    FlagsAre (cpl a f).2 (flag .s f) (flag .z f) (r.getLsbD 5) true (r.getLsbD 3) (flag .pv f) true (flag .c f) := by
  simp only [FlagsAre, cpl, flag_or, flag_and]
  simp [flag, FlagBit.index]

/-- Settles O45: the exclusive or with 0xFF is the complement. -/
theorem complementAccumulator : Obligations.ComplementAccumulator := fun s =>
  have hnot : s.a ^^^ 0xFF = ~~~s.a := BitVec.xor_allOnes
  ⟨_, rfl, rfl, (congrArg BitVec.toNat hnot).trans BitVec.toNat_not, cpl_flags s.a s.f⟩

/-! ## DAA (R380) against the standard algorithm (95_test_vectors.md §2) -/

/-- The number that DAA adds to A or subtracts from it. -/
def daaCorrection (a f : Byte) : Nat :=
  (if flag .h f || decide (a.toNat % 16 > 9) then 0x06 else 0) +
    (if flag .c f || decide (a.toNat > 0x99) then 0x60 else 0)

theorem toNat_ofNat_daaCorrection (a f : Byte) : (BitVec.ofNat 8 (daaCorrection a f)).toNat = daaCorrection a f := by
  rw [BitVec.toNat_ofNat, daaCorrection]
  split_ifs <;> rfl

theorem daaCorrection_mod_16 (a f : Byte) :
    daaCorrection a f % 16 = if flag .h f || decide (a.toNat % 16 > 9) then 6 else 0 := by
  rw [daaCorrection]
  split_ifs <;> rfl

/-- A and F of the addition or subtraction that corrects A. -/
def daaCorrected (a f : Byte) : Byte × Byte :=
  if flag .n f then sub8 a (BitVec.ofNat 8 (daaCorrection a f)) false
  else add8 a (BitVec.ofNat 8 (daaCorrection a f)) false

theorem daa_eq (a f : Byte) :
    daa a f =
      (let o := daaCorrected a f
       (o.1, (o.2 &&& 0x10) ||| (if flag .n f then tabSubP o.1 else tabAddP o.1) |||
        flagIf (flag .c f || decide (a.toNat > 0x99)) 0x01)) := by
  have hlow : (a &&& 0x0F).toNat = a.toNat % 16 := Nat.and_two_pow_sub_one_eq_mod a.toNat 4
  rw [daa, daaCorrected, daaCorrection, hlow]
  cases flag .n f <;> cases flag .h f || decide (a.toNat % 16 > 9) <;>
    cases flag .c f || decide (a.toNat > 0x99) <;> rfl

theorem daaCorrected_fst (a f : Byte) :
    (daaCorrected a f).1 =
      if flag .n f then BitVec.ofInt 8 ((a.toNat : Int) - daaCorrection a f)
      else BitVec.ofNat 8 (a.toNat + daaCorrection a f) := by
  rw [daaCorrected]
  cases flag .n f
  · simp only [add8, toNat_ofNat_daaCorrection, Bool.false_eq_true, if_false, Bool.toNat_false, Nat.add_zero]
  · simp only [sub8, toNat_ofNat_daaCorrection, if_true, Bool.toNat_false, Nat.cast_zero, Int.sub_zero]

/-- The half carry or half borrow of the correction, whose low digit is 6 or 0. -/
theorem flag_h_daaCorrected (a f : Byte) :
    flag .h (daaCorrected a f).2 =
      if flag .n f then flag .h f && decide (a.toNat % 16 < 6) else decide (a.toNat % 16 > 9) := by
  rw [daaCorrected]
  cases flag .n f
  case false =>
    obtain ⟨-, -, -, hh, -⟩ := add8_flags a (BitVec.ofNat 8 (daaCorrection a f)) false
    rw [toNat_ofNat_daaCorrection, daaCorrection_mod_16] at hh
    simp only [Bool.false_eq_true, if_false, hh, decide_eq_decide, Bool.toNat_false, Bool.or_eq_true, decide_eq_true_iff]
    split <;> omega
  case true =>
    obtain ⟨-, -, -, hh, -⟩ := sub8_flags a (BitVec.ofNat 8 (daaCorrection a f)) false
    rw [toNat_ofNat_daaCorrection, daaCorrection_mod_16] at hh
    simp only [if_true, hh, Bool.toNat_false, Bool.or_eq_true, decide_eq_true_iff]
    cases flag .h f
    · simp only [Bool.false_eq_true, false_or, Bool.false_and, decide_eq_false_iff_not]
      split <;> omega
    · simp

/-- F put together as DAA does: H from `g`, N and C as given, the rest from the corrected A. -/
theorem flags_of_daa_parts (v g : Byte) (n c : Bool) :
    ValueFlags v (flag .h g) n c ((g &&& 0x10) ||| (if n then tabSubP v else tabAddP v) ||| flagIf c 0x01) := by
  obtain ⟨hs, hz, h5, hh, h3, hpv, hn, hc⟩ := tabAddP_flags v
  cases n <;>
    simp only [Bool.false_eq_true, if_true, if_false, ValueFlags, FlagsAre, tabSubP, flag_or, flag_and, flag_flagIf, hs, hz,
      h5, hh, h3, hpv, hn, hc] <;>
    simp [flag, FlagBit.index]

theorem daa_flags (a f : Byte) :
    ValueFlags (daa a f).1
      (if flag .n f then flag .h f && decide (a.toNat % 16 < 6) else decide (a.toNat % 16 > 9))
      (flag .n f) (flag .c f || decide (a.toNat > 0x99)) (daa a f).2 := by
  rw [daa_eq, ← flag_h_daaCorrected]
  exact flags_of_daa_parts _ _ _ _

theorem daa_fst (a f : Byte) :
    (daa a f).1 =
      if flag .n f then BitVec.ofInt 8 ((a.toNat : Int) - daaCorrection a f)
      else BitVec.ofNat 8 (a.toNat + daaCorrection a f) := by
  rw [daa_eq]
  exact daaCorrected_fst a f

/-! ## NEG, SCF and CCF (R382, R386, R387) -/

theorem neg8_fst_toNat (a : Byte) : (neg8 a).1.toNat = (256 - a.toNat) % 256 := by
  have hneg : (neg8 a).1 = -a := by
    rw [neg8, sub8, ofInt_sub, ofInt_sub]
    simp
  rw [hneg]
  exact BitVec.toNat_neg a

/-- The old F counts for 5 and 3 only if the previous instruction did not set the flags (D17). -/
theorem historyQ_xor (lastQ : Bool) (f : Byte) : historyQ lastQ f ^^^ f = if lastQ then 0 else f := by
  cases lastQ
  · exact BitVec.zero_xor
  · exact BitVec.xor_self

theorem scfFlags_flags (a f : Byte) (lastQ : Bool) :
    let bit := fun (k : Nat) => a.getLsbD k || (!lastQ && f.getLsbD k)
    FlagsAre (scfFlags a f lastQ) (flag .s f) (flag .z f) (bit 5) false (bit 3) (flag .pv f) false true := by
  simp only [FlagsAre, scfFlags, historyQ_xor, flag_or, flag_and]
  cases lastQ <;> simp [flag, FlagBit.index, Bool.or_comm]

theorem ccfFlags_flags (a f : Byte) (lastQ : Bool) :
    let bit := fun (k : Nat) => a.getLsbD k || (!lastQ && f.getLsbD k)
    FlagsAre (ccfFlags a f lastQ) (flag .s f) (flag .z f) (bit 5) (flag .c f) (bit 3) (flag .pv f) false
      (!flag .c f) := by
  simp only [FlagsAre, ccfFlags, historyQ_xor, flag_or, flag_and, flag_flagIf]
  cases lastQ <;> simp [flag, FlagBit.index, Bool.or_comm]

/-- Settles O44: each instruction writes F, and DAA and NEG also A, as its operation gives them. -/
theorem daaNegScfCcf : Obligations.DaaNegScfCcf := by
  refine ⟨fun s => ?_, fun s _ => ?_, fun s => ⟨?_, ?_⟩⟩
  · have hr := daa_fst s.a s.f
    exact ⟨s.setAccFlags (daa s.a s.f), rfl, hr ▸ rfl, hr ▸ daa_flags s.a s.f⟩
  · exact ⟨_, rfl, rfl, neg8_fst_toNat s.a, sub8_flags 0 s.a false⟩
  · exact ⟨_, rfl, rfl, scfFlags_flags s.a s.f s.lastFlagQ⟩
  · exact ⟨_, rfl, rfl, ccfFlags_flags s.a s.f s.lastFlagQ⟩

end Sys2Proof.Machine
end

section
/-!
PROOFS. 16-bit arithmetic (44_alu16.md): O46 to O48. Each instruction stores a word to its place; ADD, ADC and SBC also
write MEMPTR and the flags that their operation of Machine/Flags.lean computes, whose carries, borrows and overflows are
those of the section Carry at width 16.
-/

namespace Sys2Proof.Machine

/-! ## A word stored to its place -/

/-- `u` with `w` in the place. -/
def WordPlace.stored (p : WordPlace) (u : State) (w : Word) : State :=
  match p with
  | .rp k => u.setRp k w
  | .x y => u.setX y w

theorem WordPlace.written_stored {s u : State} (p : WordPlace) (w : Word) (hp : ∀ j, pairValue u j = pairValue s j)
    (hx : ∀ y, u.getX y = s.getX y) : p.Written s (p.stored u w) w := by
  cases p with
  | rp k => exact WordPlace.written_rp k w hp hx
  | x y => exact WordPlace.written_x y w hp hx

namespace WordEffect
variable {s t : State} {f : Byte} {q : Bool} {m : Word}

theorem f_eq (h : WordEffect s t f q m) : t.f = f := congrArg State.f h.1

theorem stored {p : WordPlace} {w : Word} (h : WordEffect s t f q m) : WordEffect s (p.stored t w) f q m := by
  cases p with
  | rp _ => exact h.setRp
  | x _ => exact h.setX

end WordEffect

/-- An instruction that only stores a word. -/
theorem WordPlace.answers_of_eq_stored {s : State} {p : WordPlace} {w : Word} {r : Result}
    (h : r = .next (p.stored s w)) :
    ∃ t, r = .next t ∧ p.Written s t w ∧ WordEffect s t s.f s.flagQ s.memptr :=
  ⟨_, h, p.written_stored w (fun _ => rfl) fun _ => rfl, .stored (.refl s)⟩

/-- An instruction that writes MEMPTR, stores the word of a result and writes F, with flagQ, from its flags. -/
theorem WordPlace.answers_of_eq_stored_setFlags {s : State} {p : WordPlace} {m : Word} {o : Word × Byte} {r : Result}
    (h : r = .next (p.stored (({ s with memptr := m }).setFlags o.2) o.1)) :
    ∃ t, r = .next t ∧ p.Written s t o.1 ∧ WordEffect s t t.f true m ∧ t.f = o.2 := by
  have flagged : WordEffect s (({ s with memptr := m }).setFlags o.2) o.2 true m := ⟨rfl, .of_mem_eq rfl⟩
  have effect : WordEffect s (p.stored (({ s with memptr := m }).setFlags o.2) o.1) o.2 true m := flagged.stored
  have written := p.written_stored (s := s) (u := ({ s with memptr := m }).setFlags o.2) o.1
    (fun j => by cases j <;> rfl) fun y => by cases y <;> rfl
  exact ⟨_, h, written, effect.f_eq.symm ▸ effect, effect.f_eq⟩

/-! ## The flags of the 16-bit operations (R420) -/

/-- The flags taken from the high byte of a word are its bits 8 to 15. -/
theorem flag_hi8 (k : FlagBit) (w : Word) : flag k (hi8 w) = w.getLsbD (8 + k.index) := by
  have hk : k.index < 8 := by cases k <;> decide
  rw [flag, hi8_getLsbD, decide_eq_true hk, Bool.true_and]

theorem getLsbD_15_eq (w : Word) : w.getLsbD 15 = decide (w.toNat ≥ 32768) := BitVec.msb_eq_decide w

theorem and_0x8000_bne_zero (w : Word) : (w &&& 0x8000 != 0) = w.msb := by
  rw [show w &&& 0x8000 = if w.msb then 0x8000 else 0 from BitVec.and_twoPow w 15]
  cases w.msb <;> rfl

theorem add16_flags (a b : Word) (f : Byte) :
    let r := (add16 a b f).1
    FlagsAre (add16 a b f).2 (flag .s f) (flag .z f) (r.getLsbD 13)
      (decide (a.toNat % 4096 + b.toNat % 4096 ≥ 4096)) (r.getLsbD 11) (flag .pv f) false
      (decide (a.toNat + b.toNat ≥ 65536)) := by
  have half := getLsbD_xor_sum a b false (i := 12) (by decide)
  simp only [Bool.toNat_false, Nat.add_zero, Nat.reducePow] at half
  simp only [FlagsAre, add16, flag_or, flag_and, flag_flagIf, flag_hi8, FlagBit.index, Nat.reduceAdd, half]
  simp [flag, FlagBit.index, Nat.lt_iff_add_one_le]

theorem adc16_flags (a b : Word) (c : Bool) :
    let r := (adc16 a b c).1
    FlagsAre (adc16 a b c).2 (decide (r.toNat ≥ 32768)) (decide (r = 0)) (r.getLsbD 13)
      (decide (a.toNat % 4096 + b.toNat % 4096 + c.toNat ≥ 4096)) (r.getLsbD 11)
      (decide (a.toInt + b.toInt + c.toNat ≥ 32768 ∨ a.toInt + b.toInt + c.toNat < -32768)) false
      (decide (a.toNat + b.toNat + c.toNat ≥ 65536)) := by
  have half := getLsbD_xor_sum a b c (i := 12) (by decide)
  simp only [Nat.reducePow] at half
  simp only [FlagsAre, adc16, and_0x8000_bne_zero, msb_overflow_sum a b c (by decide), ← getLsbD_15_eq, beq_eq_decide,
    flag_or, flag_and, flag_flagIf, flag_hi8, FlagBit.index, Nat.reduceAdd, half]
  simp [flag, FlagBit.index, Nat.lt_iff_add_one_le]

theorem sbc16_flags (a b : Word) (c : Bool) :
    let r := (sbc16 a b c).1
    FlagsAre (sbc16 a b c).2 (decide (r.toNat ≥ 32768)) (decide (r = 0)) (r.getLsbD 13)
      (decide (a.toNat % 4096 < b.toNat % 4096 + c.toNat)) (r.getLsbD 11)
      (decide (a.toInt - b.toInt - c.toNat ≥ 32768 ∨ a.toInt - b.toInt - c.toNat < -32768)) true
      (decide (a.toNat < b.toNat + c.toNat)) := by
  have half := getLsbD_xor_difference a b c (i := 12) (by decide)
  have borrow : decide ((a.toNat : Int) - b.toNat - c.toNat < 0) = decide (a.toNat < b.toNat + c.toNat) :=
    decide_eq_decide.mpr (by omega)
  simp only [Nat.reducePow] at half
  simp only [FlagsAre, sbc16, and_0x8000_bne_zero, msb_overflow_difference a b c (by decide), borrow, ← getLsbD_15_eq,
    beq_eq_decide, flag_or, flag_and, flag_flagIf, flag_hi8, FlagBit.index, Nat.reduceAdd, half]
  simp [flag, FlagBit.index]

/-! ## ADD, ADC and SBC (R421 to R424) -/

theorem exec_addHlRp (s : State) (k : RegPair) :
    let o := add16 (mk16 s.h s.l) (pairValue s k) s.f
    exec (.addHlRp k) s =
      .next ((WordPlace.rp .hl).stored (({ s with memptr := mk16 s.h s.l + 1 }).setFlags o.2) o.1) := by
  cases k <;> rfl

theorem exec_addXRp (s : State) (x : IndexReg) (k : IndexPair) :
    let o := add16 (s.getX x) ((indexPairPlace x k).value s) s.f
    exec (.addXRp x k) s =
      .next ((WordPlace.x x).stored (({ s with memptr := s.getX x + 1 }).setFlags o.2) o.1) := by
  cases x <;> cases k <;> rfl

theorem exec_adcHlRp (s : State) (k : RegPair) :
    let o := adc16 (mk16 s.h s.l) (pairValue s k) (flag .c s.f)
    exec (.adcHlRp k) s =
      .next ((WordPlace.rp .hl).stored (({ s with memptr := mk16 s.h s.l + 1 }).setFlags o.2) o.1) := by
  cases k <;> rfl

theorem exec_sbcHlRp (s : State) (k : RegPair) :
    let o := sbc16 (mk16 s.h s.l) (pairValue s k) (flag .c s.f)
    exec (.sbcHlRp k) s =
      .next ((WordPlace.rp .hl).stored (({ s with memptr := mk16 s.h s.l + 1 }).setFlags o.2) o.1) := by
  cases k <;> rfl

/-- Settles O46: both are `add16`. -/
theorem addWords : Obligations.AddWords := by
  refine fun s => ⟨fun k => ?_, fun x k => ?_⟩
  · obtain ⟨t, ht, hw, he, hf⟩ := WordPlace.answers_of_eq_stored_setFlags (exec_addHlRp s k)
    exact ⟨t, ht, hw, he, hf ▸ add16_flags _ _ s.f⟩
  · obtain ⟨t, ht, hw, he, hf⟩ := WordPlace.answers_of_eq_stored_setFlags (exec_addXRp s x k)
    exact ⟨t, ht, hw, he, hf ▸ add16_flags _ _ s.f⟩

/-- Settles O47: they are `adc16` and `sbc16`, with the old C as carry-in. -/
theorem adcAndSbcWords : Obligations.AdcAndSbcWords := by
  intro s k
  obtain ⟨t, ht, hw, he, hf⟩ := WordPlace.answers_of_eq_stored_setFlags (exec_adcHlRp s k)
  obtain ⟨u, hu, hwu, heu, hfu⟩ := WordPlace.answers_of_eq_stored_setFlags (exec_sbcHlRp s k)
  exact ⟨⟨t, ht, hw, he, hf ▸ adc16_flags _ _ _⟩, ⟨u, hu, hwu, heu, hfu ▸ sbc16_flags _ _ _⟩⟩

/-! ## INC and DEC (R425 to R428) -/

theorem Word.add_one_eq_ofNat (w : Word) : w + 1 = BitVec.ofNat 16 (w.toNat + 1) := by
  simp [BitVec.ofNat_add]

theorem Word.sub_one_eq_ofNat (w : Word) : w - 1 = BitVec.ofNat 16 (w.toNat + 65535) := by
  rw [BitVec.ofNat_add, BitVec.ofNat_toNat, BitVec.setWidth_eq]
  exact BitVec.sub_eq_add_neg w 1

/-- Settles O48: one pair or index register is written, with its value plus or minus 1. -/
theorem incAndDecWords : Obligations.IncAndDecWords := by
  intro s k x counts
  have inc (i : Instr) (p : WordPlace) (h : exec i s = .next (p.stored s (p.value s + 1))) : counts i p 1 :=
    WordPlace.answers_of_eq_stored (Word.add_one_eq_ofNat _ ▸ h)
  have dec (i : Instr) (p : WordPlace) (h : exec i s = .next (p.stored s (p.value s - 1))) : counts i p 65535 :=
    WordPlace.answers_of_eq_stored (Word.sub_one_eq_ofNat _ ▸ h)
  exact ⟨inc _ (.rp k) (by cases k <;> rfl), dec _ (.rp k) (by cases k <;> rfl), inc _ (.x x) rfl, dec _ (.x x) rfl⟩

end Sys2Proof.Machine
end

section
/-!
PROOFS. Rotates, shifts and bit operations (45_rotate_bit.md): O49 to O54. A shift is arithmetic on the number of a byte,
because the bits that come in lie below or above those that stay. A shift, RES and SET load and store their place
(`Place.stored`), BIT writes F alone, and the rotates of A and of digits are `State.rotateA` and `State.rotateDigit`.
-/

namespace Sys2Proof.Machine

/-! ## Bytes put together from parts that share no bit -/

/-- The high part is a multiple of 2 ^ i and the low part below it: nothing carries, so the or is the sum. -/
theorem toNat_or_of_dvd_of_lt {w i : Nat} {hi lo : BitVec w} (hdvd : 2 ^ i ∣ hi.toNat) (hlt : lo.toNat < 2 ^ i) :
    (hi ||| lo).toNat = hi.toNat + lo.toNat := by
  obtain ⟨n, hn⟩ := hdvd
  rw [BitVec.toNat_or, hn, Nat.two_pow_add_eq_or_of_lt hlt]

theorem toNat_getLsbD (v : Byte) (k : Nat) : (v.getLsbD k).toNat = v.toNat / 2 ^ k % 2 := Nat.toNat_testBit v.toNat k

theorem toNat_flagIf (c : Bool) (m : Byte) : (flagIf c m).toNat = c.toNat * m.toNat := by
  cases c <;> simp [flagIf]

/-! ## The shifted value and the bit shifted out (R455) -/

theorem toNat_shiftLeft_one (v : Byte) : (v <<< 1).toNat = v.toNat * 2 % 256 := by
  rw [BitVec.toNat_shiftLeft, Nat.shiftLeft_eq]

theorem toNat_ushiftRight_one (v : Byte) : (v >>> 1).toNat = v.toNat / 2 := by
  rw [BitVec.toNat_ushiftRight, Nat.shiftRight_eq_div_pow]

/-- A shift to the left with a bit that comes in at bit 0. -/
theorem toNat_shiftLeft_one_or (v : Byte) (c : Bool) :
    (v <<< 1 ||| flagIf c 0x01).toNat = v.toNat * 2 % 256 + c.toNat := by
  have hbit : (flagIf c 0x01).toNat = c.toNat := by rw [toNat_flagIf]; exact Nat.mul_one _
  have hlt := c.toNat_lt
  rw [toNat_or_of_dvd_of_lt (i := 1) (by rw [toNat_shiftLeft_one]; omega) (by omega), toNat_shiftLeft_one, hbit]

/-- A shift to the right with a bit that comes in at bit 7. -/
theorem toNat_ushiftRight_one_or (v : Byte) (c : Bool) :
    (v >>> 1 ||| flagIf c 0x80).toNat = v.toNat / 2 + c.toNat * 128 := by
  have hbit : (flagIf c 0x80).toNat = c.toNat * 128 := toNat_flagIf c 0x80
  have hv := v.isLt
  rw [BitVec.or_comm, toNat_or_of_dvd_of_lt (i := 7) (by omega) (by rw [toNat_ushiftRight_one]; omega),
    toNat_ushiftRight_one, hbit, Nat.add_comm]

theorem toNat_getLsbD_0 (v : Byte) : (v.getLsbD 0).toNat = v.toNat % 2 := by
  rw [toNat_getLsbD, Nat.pow_zero, Nat.div_one]

theorem toNat_getLsbD_7 (v : Byte) : (v.getLsbD 7).toNat = v.toNat / 128 := by
  rw [toNat_getLsbD]
  have := v.isLt
  omega

theorem ShiftOp.result_toNat (k : ShiftOp) (v : Byte) (cin : Bool) :
    (k.result v cin).toNat = shiftedNat k v.toNat cin.toNat := by
  cases k with
  | rlc => rw [ShiftOp.result, toNat_shiftLeft_one_or, toNat_getLsbD_7, shiftedNat]
  | rrc => rw [ShiftOp.result, toNat_ushiftRight_one_or, toNat_getLsbD_0, shiftedNat]
  | rl => exact toNat_shiftLeft_one_or v cin
  | rr => exact toNat_ushiftRight_one_or v cin
  | sla => exact toNat_shiftLeft_one v
  | sra =>
    have hsign : v &&& 0x80 = flagIf (v.getLsbD 7) 0x80 := BitVec.and_twoPow v 7
    rw [ShiftOp.result, hsign, toNat_ushiftRight_one_or, toNat_getLsbD_7, shiftedNat]
  | sll => exact toNat_shiftLeft_one_or v true
  | srl => exact toNat_ushiftRight_one v

theorem ShiftOp.out_toNat (k : ShiftOp) (v : Byte) : (k.out v).toNat = shiftedOut k v.toNat := by
  cases k with
  | rlc | rl | sla | sll => exact toNat_getLsbD_7 v
  | rrc | rr | sra | srl => exact toNat_getLsbD_0 v

theorem ShiftOp.out_eq_decide (k : ShiftOp) (v : Byte) : k.out v = decide (shiftedOut k v.toNat = 1) := by
  rw [← k.out_toNat]
  cases k.out v <;> rfl

/-! ## The flags (R450 to R456, R490, R491) -/

/-- The table with C besides. -/
theorem tabAddP_or_c_flags (v : Byte) (c : Bool) : ValueFlags v false false c (tabAddP v ||| flagIf c 0x01) := by
  obtain ⟨hs, hz, h5, hh, h3, hpv, hn, hc⟩ := tabAddP_flags v
  simp only [ValueFlags, FlagsAre, flag_or, flag_flagIf, hs, hz, h5, hh, h3, hpv, hn, hc]
  simp [flag, FlagBit.index]

theorem shift8_flags (k : ShiftOp) (v f : Byte) :
    ValueFlags (shift8 k v f).1 false false (decide (shiftedOut k v.toNat = 1)) (shift8 k v f).2 := by
  rw [← k.out_eq_decide]
  exact tabAddP_or_c_flags _ _

theorem parityFlags_flags (v f : Byte) : ValueFlags v false false (flag .c f) (parityFlags v f) := by
  have hc : f &&& 0x01 = flagIf (flag .c f) 0x01 := BitVec.and_twoPow f 0
  rw [parityFlags, hc]
  exact tabAddP_or_c_flags _ _

theorem accRotate_flags (k : ShiftOp) (a f : Byte) :
    let r := (accRotate k a f).1
    FlagsAre (accRotate k a f).2 (flag .s f) (flag .z f) (r.getLsbD 5) false (r.getLsbD 3) (flag .pv f) false
      (decide (shiftedOut k a.toNat = 1)) := by
  simp only [FlagsAre, accRotate, ← k.out_eq_decide, flag_or, flag_and, flag_flagIf]
  simp [flag, FlagBit.index]

/-- The flags of BIT: 5 and 3 from the byte `xy`, C from the old flags. -/
theorem bitFlags_flags (bit : BitVec 3) (v xy f : Byte) :
    let set := decide (v.toNat / 2 ^ bit.toNat % 2 = 1)
    FlagsAre (bitFlags bit v xy f) (set && decide (bit.toNat = 7)) (!set) (xy.getLsbD 5) true (xy.getLsbD 3) (!set) false
      (flag .c f) := by
  have hset : v.getLsbD bit.toNat = decide (v.toNat / 2 ^ bit.toNat % 2 = 1) := Nat.testBit_eq_decide_div_mod_eq
  have htop : (bit == 7) = decide (bit.toNat = 7) := by
    rw [beq_eq_decide, decide_eq_decide]
    exact BitVec.toNat_inj.symm
  simp only [FlagsAre, bitFlags, hset, htop, flag_or, flag_and, flag_flagIf]
  simp [flag, FlagBit.index]

/-! ## RLCA, RRCA, RLA and RRA (R450 to R453) -/

/-- Settles O49: each is `rotateA` of its operation. -/
theorem accumulatorRotates : Obligations.AccumulatorRotates := by
  intro s rotates
  have rotateA (i : Instr) (k : ShiftOp) (h : exec i s = .next (s.rotateA k)) : rotates i k :=
    ⟨s.rotateA k, h, rfl, k.result_toNat s.a (flag .c s.f), accRotate_flags k s.a s.f⟩
  exact ⟨rotateA _ _ rfl, rotateA _ _ rfl, rotateA _ _ rfl, rotateA _ _ rfl⟩

/-! ## The rotates and shifts in their four forms (R458, R460 to R467) -/

theorem exec_shift (s : State) (k : ShiftOp) (p : BitForm) :
    let o := shift8 k (p.place.value s) s.f
    exec (p.shift k) s = .next (p.place.stored s ((p.place.loaded s).setFlags o.2) o.1) := by
  cases p with
  | r _ | hl | xd _ _ | xdr _ _ _ => cases k <;> rfl

theorem shift8_fst (k : ShiftOp) (v f : Byte) :
    (shift8 k v f).1 = BitVec.ofNat 8 (shiftedNat k v.toNat (flag .c f).toNat) := by
  rw [← k.result_toNat, BitVec.ofNat_toNat, BitVec.setWidth_eq]
  rfl

/-- Settles O50: the place gets what `shift8` makes of its value. -/
theorem rotatesAndShifts : Obligations.RotatesAndShifts := by
  intro s k p v
  rw [← shift8_fst]
  obtain ⟨t, ht, hw, he, hf⟩ := Place.answers_of_eq_stored (exec_shift s k p)
  exact ⟨t, ht, hw, he, hf ▸ shift8_flags k v s.f⟩

/-! ## BIT (R470, R472, R473) -/

theorem hi8_eq_ofNat (w : Word) : hi8 w = BitVec.ofNat 8 (w.toNat / 256) := by
  rw [← hi8_toNat, BitVec.ofNat_toNat, BitVec.setWidth_eq]

/-- Settles O51: F alone is written, for (HL) after the read. -/
theorem bitTests : Obligations.BitTests := by
  intro s bit r
  rw [← hi8_eq_ofNat]
  exact ⟨⟨_, rfl, .of_mem_eq rfl, rfl, bitFlags_flags bit (s.getR8 r) (s.getR8 r) s.f⟩,
    ⟨_, rfl, .of_mem_eq rfl, rfl, bitFlags_flags bit (s.byteAt s.hl) (hi8 s.memptr) s.f⟩⟩

/-- Settles O52: F alone is written, after MEMPTR and the read; no field but `bit` counts. -/
theorem bitTestsIndexed : Obligations.BitTestsIndexed := by
  intro s x d bit z v set xy
  have hxy : hi8 (s.ea x d) = xy := hi8_eq_ofNat _
  exact ⟨_, rfl, .of_mem_eq rfl, rfl, hxy ▸ bitFlags_flags bit v (hi8 (s.ea x d)) s.f⟩

/-! ## RES and SET in their four forms (R475 to R477, R480 to R482) -/

theorem bitMask_getLsbD (bit : BitVec 3) (k : Nat) : (bitMask bit).getLsbD k = decide (k = bit.toNat) := by
  have hmask : bitMask bit = BitVec.twoPow 8 bit.toNat := (BitVec.twoPow_eq 8 bit.toNat).symm
  rw [hmask, BitVec.getLsbD_twoPow, decide_eq_true bit.isLt, Bool.true_and, decide_eq_decide, eq_comm]

theorem resBit_getLsbD (bit : BitVec 3) (v : Byte) {k : Nat} (hk : k < 8) :
    (resBit bit v).getLsbD k = if k = bit.toNat then false else v.getLsbD k := by
  rw [resBit, BitVec.getLsbD_and, BitVec.getLsbD_not, bitMask_getLsbD, decide_eq_true hk]
  split <;> simp [*]

theorem setBit_getLsbD (bit : BitVec 3) (v : Byte) (k : Nat) :
    (setBit bit v).getLsbD k = if k = bit.toNat then true else v.getLsbD k := by
  rw [setBit, BitVec.getLsbD_or, bitMask_getLsbD]
  split <;> simp [*]

/-- An instruction that reads a place and stores to it, with no flag written. -/
theorem Place.answers_of_eq_stored_loaded {s : State} {p : Place} {v : Byte} {r : Result}
    (h : r = .next (p.stored s (p.loaded s) v)) :
    ∃ t, r = .next t ∧ p.Written s t v ∧ Effect s t s.f s.flagQ (p.memptr s) :=
  ⟨_, h, p.written_stored v (p.sameOperands_loaded s), .stored (.loaded s p)⟩

theorem exec_res (s : State) (bit : BitVec 3) (p : BitForm) :
    exec (p.res bit) s = .next (p.place.stored s (p.place.loaded s) (resBit bit (p.place.value s))) := by
  cases p <;> rfl

theorem exec_set (s : State) (bit : BitVec 3) (p : BitForm) :
    exec (p.set bit) s = .next (p.place.stored s (p.place.loaded s) (setBit bit (p.place.value s))) := by
  cases p <;> rfl

/-- Settles O53: the place gets what `resBit` or `setBit` makes of its value. -/
theorem resAndSet : Obligations.ResAndSet := by
  intro s bit p v
  obtain ⟨t, ht, hw, he⟩ := Place.answers_of_eq_stored_loaded (exec_res s bit p)
  obtain ⟨u, hu, hwu, heu⟩ := Place.answers_of_eq_stored_loaded (exec_set s bit p)
  exact ⟨⟨t, _, ht, fun _ hk => resBit_getLsbD bit v hk, hw, he⟩,
    ⟨u, _, hu, fun k _ => setBit_getLsbD bit v k, hwu, heu⟩⟩

/-! ## RLD and RRD (R490, R491) -/

theorem toNat_ushiftRight_four (v : Byte) : (v >>> 4).toNat = v.toNat / 16 := by
  rw [BitVec.toNat_ushiftRight, Nat.shiftRight_eq_div_pow]

theorem toNat_shiftLeft_four (v : Byte) : (v <<< 4).toNat = v.toNat % 16 * 16 := by
  rw [BitVec.toNat_shiftLeft, Nat.shiftLeft_eq]
  omega

theorem toNat_and_0x0F (v : Byte) : (v &&& 0x0F).toNat = v.toNat % 16 := Nat.and_two_pow_sub_one_eq_mod v.toNat 4

/-- A high digit that stays and a new low one. -/
theorem toNat_and_0xF0_or (v : Byte) {lo : Byte} (hlo : lo.toNat < 16) :
    ((v &&& 0xF0) ||| lo).toNat = v.toNat / 16 * 16 + lo.toNat := by
  have hhigh : (v &&& 0xF0).toNat = v.toNat / 16 * 16 := by
    revert v
    decide
  rw [toNat_or_of_dvd_of_lt (i := 4) (by omega) hlo, hhigh]

/-- A low digit moved up and a new low one. -/
theorem toNat_shiftLeft_four_or (v : Byte) {lo : Byte} (hlo : lo.toNat < 16) :
    (v <<< 4 ||| lo).toNat = v.toNat % 16 * 16 + lo.toNat := by
  rw [toNat_or_of_dvd_of_lt (i := 4) (by rw [toNat_shiftLeft_four]; omega) hlo, toNat_shiftLeft_four]

/-- The digits of A and of the byte after a rotation, from the three digits that rotate as one number. -/
def DigitsRotated (a v : Byte) (o : Byte × Byte) (digits : Nat → Nat) : Prop :=
  let n := digits (a.toNat % 16 * 256 + v.toNat)
  o.2.toNat = n % 256 ∧ o.1.toNat = a.toNat / 16 * 16 + n / 256

theorem twelveBits_rotateLeft (c : Nat) {v : Nat} (hv : v < 256) :
    (c * 256 + v) * 16 % 4096 + (c * 256 + v) / 256 = v * 16 + c := by
  omega

theorem rldDigits_rotated (a v : Byte) :
    DigitsRotated a v (rldDigits a v) fun n => n * 16 % 4096 + n / 256 := by
  have hhigh := toNat_ushiftRight_four v
  have hlow := toNat_and_0x0F a
  have hv := v.isLt
  have ha : (rldDigits a v).1.toNat = _ := toNat_and_0xF0_or a (lo := v >>> 4) (by omega)
  have hmem : (rldDigits a v).2.toNat = _ := toNat_shiftLeft_four_or v (lo := a &&& 0x0F) (by omega)
  have hn := twelveBits_rotateLeft (a.toNat % 16) hv
  rw [DigitsRotated, ha, hmem, hhigh, hlow, hn]
  omega

theorem rrdDigits_rotated (a v : Byte) :
    DigitsRotated a v (rrdDigits a v) fun n => n / 16 + n % 16 * 256 := by
  have hhigh := toNat_ushiftRight_four v
  have hlow := toNat_and_0x0F v
  have hv := v.isLt
  have ha : (rrdDigits a v).1.toNat = _ := toNat_and_0xF0_or a (lo := v &&& 0x0F) (by omega)
  have hmem : (rrdDigits a v).2.toNat = _ := toNat_shiftLeft_four_or a (lo := v >>> 4) (by omega)
  have hn : (a.toNat % 16 * 256 + v.toNat) / 16 + (a.toNat % 16 * 256 + v.toNat) % 16 * 256 =
      a.toNat % 16 * 16 + v.toNat / 16 + v.toNat % 16 * 256 := by omega
  rw [DigitsRotated, ha, hmem, hhigh, hlow, hn]
  omega

theorem State.rotateDigit_mem (s : State) (g : Byte → Byte → Byte × Byte) :
    (s.rotateDigit g).mem = (s.memWrite s.hl (g s.a (s.byteAt s.hl)).2).mem := rfl

/-- Settles O54: both are `rotateDigit`, which writes one byte, at HL. -/
theorem digitRotates : Obligations.DigitRotates := by
  intro s rotates
  have rotateDigit (i : Instr) (g : Byte → Byte → Byte × Byte) (digits : Nat → Nat)
      (hi : exec i s = .next (s.rotateDigit g))
      (hg : DigitsRotated s.a (s.byteAt s.hl) (g s.a (s.byteAt s.hl)) digits) : rotates i digits := by
    obtain ⟨hbyte, hkept⟩ := byteWritten_of_mem_eq_memWrite (s.rotateDigit_mem g)
    obtain ⟨hmem, ha⟩ := hg
    exact ⟨_, hi, (congrArg BitVec.toNat hbyte).trans hmem, hkept, ha, rfl, parityFlags_flags _ s.f⟩
  have rld := rotateDigit .rld _ _ rfl (rldDigits_rotated _ _)
  have rrd := rotateDigit .rrd _ _ rfl (rrdDigits_rotated _ _)
  exact ⟨rld, rrd⟩

end Sys2Proof.Machine
end

section
/-!
PROOFS. Jumps, calls and returns (46_control.md): O55 and O56. A taken relative jump is `State.relativeJump`, a taken
call `State.callTo`, a taken return `State.popPc`; a conditional form is an `if` on its condition.
-/

namespace Sys2Proof.Machine

theorem State.holds_of_condHolds {s : State} {cc : Cond} (h : CondHolds cc s.f) : s.holds cc = true :=
  (s.holds_iff cc).mpr h

theorem State.not_holds_of_not_condHolds {s : State} {cc : Cond} (h : ¬ CondHolds cc s.f) : ¬ s.holds cc = true :=
  mt (s.holds_iff cc).mp h

/-! ## Jumps (R500 to R506) -/

theorem Byte.sub_one_eq_ofNat (v : Byte) : v - 1 = BitVec.ofNat 8 (v.toNat + 255) := by
  bv_omega

/-- DJNZ by the value of B before it: the decrement takes 1, and nothing else, to 0 (R506). -/
theorem exec_djnz (s : State) (e : Byte) :
    exec (.djnz e) s =
      (let s1 := { s with b := s.b - 1 }
       .next (if s.b ≠ 1 then s1.relativeJump e else s1)) :=
  congrArg Host.Outcome.next (if_congr (bne_iff_ne.trans sub_ne_zero) rfl rfl)

/-- Settles O55: each form is `State.enter`, a write of PC, or `State.relativeJump`; a conditional one is an `if`. -/
theorem jumps : Obligations.Jumps := by
  intro s nn cc x e target goes
  have hrel : s.relativeJump e = { s with pc := target, memptr := target } := s.relativeJump_eq e
  have jpTaken (h : CondHolds cc s.f) : goes (.jpCc cc nn) (s.enter nn) :=
    ⟨_, rfl, if_pos (State.holds_of_condHolds h)⟩
  have jpNotTaken (h : ¬ CondHolds cc s.f) : goes (.jpCc cc nn) { s with memptr := nn } :=
    ⟨_, rfl, if_neg (State.not_holds_of_not_condHolds h)⟩
  have jrTaken (h : CondHolds cc s.f) : goes (.jrCc cc e) { s with pc := target, memptr := target } :=
    ⟨_, rfl, (if_pos (State.holds_of_condHolds h)).trans hrel⟩
  have jrNotTaken (h : ¬ CondHolds cc s.f) : goes (.jrCc cc e) s :=
    ⟨_, rfl, if_neg (State.not_holds_of_not_condHolds h)⟩
  refine ⟨⟨_, rfl, rfl⟩, jpTaken, jpNotTaken, ⟨_, rfl, rfl⟩, ⟨_, rfl, rfl⟩, ⟨_, rfl, hrel⟩, jrTaken, jrNotTaken,
    fun hb => ?djnzTaken, fun hb => ?djnzNotTaken⟩
  case djnzTaken =>
    rw [← Byte.sub_one_eq_ofNat]
    exact ⟨_, exec_djnz s e, (if_pos hb).trans (State.relativeJump_eq _ e)⟩
  case djnzNotTaken =>
    have hzero : s.b - 1 = 0 := sub_eq_zero.mpr hb
    rw [← hzero]
    exact ⟨_, exec_djnz s e, if_neg (not_not.mpr hb)⟩

/-! ## Calls and returns (R507 to R510, R512) -/

theorem MemKept.popPc (s : State) : MemKept s s.popPc := .of_mem_eq (by rw [State.popPc_eq])

theorem State.popPc_frame (s : State) :
    s.popPc = { s with
      pc := s.wordAt s.sp, memptr := s.wordAt s.sp, sp := s.sp + 2, events := s.popPc.events } := by
  rw [State.popPc_eq]

/-- Settles O56: a taken call is `State.callTo`, a taken return `State.popPc`. -/
theorem callsAndReturns : Obligations.CallsAndReturns := by
  intro s nn cc y calls returns
  have call {i : Instr} {target : Word} (hi : exec i s = .next (s.callTo target)) : calls i target :=
    ⟨_, _, hi, s.push_pushed s.pc, s.callTo_eq target⟩
  have ret {i : Instr} (hi : exec i s = .next s.popPc) : returns i := ⟨_, hi, .popPc s, s.popPc_frame⟩
  have taken {i : Instr} {t u : State} (hi : exec i s = .next (if s.holds cc then t else u)) (h : CondHolds cc s.f) :
      exec i s = .next t := by
    rw [hi, if_pos (State.holds_of_condHolds h)]
  have callNotTaken (h : ¬ CondHolds cc s.f) :
      ∃ t, exec (.callCc cc nn) s = .next t ∧ t = { s with memptr := nn } ∧ MemKept s t := by
    refine ⟨_, rfl, ?_⟩
    rw [if_neg (State.not_holds_of_not_condHolds h)]
    exact ⟨rfl, .of_mem_eq rfl⟩
  have retNotTaken (h : ¬ CondHolds cc s.f) : ∃ t, exec (.retCc cc) s = .next t ∧ t = s :=
    ⟨_, rfl, if_neg (State.not_holds_of_not_condHolds h)⟩
  have rst : calls (.rst y) (BitVec.ofNat 16 (8 * y.toNat)) := rstTarget_eq y ▸ call rfl
  exact ⟨call rfl, fun h => call (taken rfl h), callNotTaken, rst, ret rfl, fun h => ret (taken rfl h), retNotTaken⟩

end Sys2Proof.Machine
end

section
/-!
PROOFS. The chain of rows that one instruction runs (R162 to R165): which rows continue and in which domain, what a row that is
run answers, and the chain as a relation (`Runs`) over which facts about a step are proved by induction. O59.
-/

namespace Sys2Proof

/-! ## The rows that continue -/

theorem Instr.eq_of_continues {i : Instr} {dom : Domain} (h : i.continues = some dom) :
    i = .prefixCB ∧ dom = .cb ∨ i = .prefixED ∧ dom = .ed ∨ (∃ x : IndexReg, i = x.leadRow ∧ dom = .index x) ∨
      (∃ x d, i = .prefixXCB x d ∧ dom = .indexCB x d) ∨ ∃ x op, i = .ddFallback x op ∧ dom = .base := by
  cases i with
  | prefixCB => exact .inl ⟨rfl, (Option.some.inj h).symm⟩
  | prefixED => exact .inr (.inl ⟨rfl, (Option.some.inj h).symm⟩)
  | prefixDD => exact .inr (.inr (.inl ⟨.ix, rfl, (Option.some.inj h).symm⟩))
  | prefixFD => exact .inr (.inr (.inl ⟨.iy, rfl, (Option.some.inj h).symm⟩))
  | prefixXCB x d => exact .inr (.inr (.inr (.inl ⟨x, d, rfl, (Option.some.inj h).symm⟩)))
  | ddFallback x op => exact .inr (.inr (.inr (.inr ⟨x, op, rfl, (Option.some.inj h).symm⟩)))
  | _ => cases h

theorem IndexReg.domain_leadRow (x : IndexReg) : x.leadRow.domain = .base := by cases x <;> rfl

theorem IndexReg.rowBytes_leadRow (x : IndexReg) : x.leadRow.rowBytes = [x.byte] := by cases x <;> rfl

/-- In the unprefixed domain CB, ED, DD and FD continue. -/
theorem decodeOp_base_continues {op n1 n2 : Byte} {dom : Domain} (h : (decodeOp .base op n1 n2).continues = some dom) :
    dom = .cb ∨ dom = .ed ∨ ∃ x : IndexReg, op = x.byte ∧ dom = .index x := by
  obtain ⟨-, hdom, hbytes⟩ := decodeOp_sound .base op n1 n2
  rcases Instr.eq_of_continues h with ⟨-, rfl⟩ | ⟨-, rfl⟩ | ⟨x, hi, rfl⟩ | ⟨x, d, hi, -⟩ | ⟨x, b, hi, -⟩
  · exact .inl rfl
  · exact .inr (.inl rfl)
  · rw [hi, x.rowBytes_leadRow] at hbytes
    exact .inr (.inr ⟨x, (List.cons.inj hbytes).1.symm, rfl⟩)
  · rw [hi] at hdom
    cases hdom
  · rw [hi] at hdom
    cases hdom

/-- In the DD/FD domain CB continues, and every byte outside the DD/FD set. -/
theorem decodeOp_index_continues {x : IndexReg} {op n1 n2 : Byte} {dom : Domain}
    (h : (decodeOp (.index x) op n1 n2).continues = some dom) :
    (∃ d, dom = .indexCB x d) ∨ dom = .base ∧ inIndexSet op = false := by
  obtain ⟨hwf, hdom, hbytes⟩ := decodeOp_sound (.index x) op n1 n2
  rcases Instr.eq_of_continues h with ⟨hi, -⟩ | ⟨hi, -⟩ | ⟨y, hi, -⟩ | ⟨y, d, hi, rfl⟩ | ⟨y, b, hi, rfl⟩
  · rw [hi] at hdom
    cases hdom
  · rw [hi] at hdom
    cases hdom
  · rw [hi, y.domain_leadRow] at hdom
    cases hdom
  · rw [hi] at hdom
    cases hdom
    exact .inl ⟨d, rfl⟩
  · rw [hi] at hwf hbytes
    obtain rfl : b = op := (List.cons.inj hbytes).1
    exact .inr ⟨rfl, (Bool.not_eq_true' _).mp hwf⟩

/-- A row of the CB, ED or DD/FD-CB domain ends the instruction. -/
theorem decodeOp_continues_eq_none {dom : Domain} (hbase : dom ≠ .base) (hindex : ∀ x, dom ≠ .index x) (op n1 n2 : Byte) :
    (decodeOp dom op n1 n2).continues = none := by
  rw [Option.eq_none_iff_forall_ne_some]
  intro dom' h
  have hdom := (decodeOp_sound dom op n1 n2).2.1
  rcases Instr.eq_of_continues h with ⟨hi, -⟩ | ⟨hi, -⟩ | ⟨x, hi, -⟩ | ⟨x, d, hi, -⟩ | ⟨x, b, hi, -⟩
  · exact hbase (by rw [← hdom, hi]; rfl)
  · exact hbase (by rw [← hdom, hi]; rfl)
  · exact hbase (by rw [← hdom, hi, x.domain_leadRow])
  · exact hindex x (by rw [← hdom, hi]; rfl)
  · exact hindex x (by rw [← hdom, hi]; rfl)

end Sys2Proof

namespace Sys2Proof.Machine

/-! ## Running one row -/

/-- Every instruction answers a next state. -/
theorem exec_answers (i : Instr) (s : State) : ∃ t, exec i s = .next t := by
  obtain ⟨t, ht, -⟩ := exec_accounts i s
  exact ⟨t, ht⟩

/-- Settles O59: the case analysis of `exec_accounts`. -/
theorem everyInstructionCompletes : Obligations.EveryInstructionCompletes := exec_answers

/-- The row that the byte selects from the two bytes at PC. -/
def State.rowAt (s : State) (dom : Domain) (op : Byte) : Instr := decodeOp dom op (s.byteAt s.pc) (s.byteAt (s.pc + 1))

theorem State.rowAt_continues_eq_none (s : State) {dom : Domain} (hbase : dom ≠ .base) (hindex : ∀ x, dom ≠ .index x)
    (op : Byte) : (s.rowAt dom op).continues = none :=
  decodeOp_continues_eq_none hbase hindex op _ _

/-- The state in which the meaning of that row runs. -/
def State.pastRow (s : State) (dom : Domain) (op : Byte) : State := s.fetchOperands (s.rowAt dom op).operandCount

/-- The dispatching byte of the row after a row that continues in `dom'` (R163, R165). -/
def State.nextOp (s : State) (dom : Domain) (op : Byte) (dom' : Domain) : Byte :=
  if dom' = .base then op else (s.pastRow dom op).byteAt (s.pastRow dom op).pc

section
variable {dom dom' : Domain} {op : Byte} {s t u : State} {k : Domain → Byte → State → Result}

/-- What a row that is run answers: its instruction's next state if it ends there, else what the continuation does. -/
theorem runRow_eq (hx : exec (s.rowAt dom op) (s.pastRow dom op) = .next u) :
    runRow exec dom op s k =
      match (s.rowAt dom op).continues with
      | none => .next u
      | some dom' => k dom' (s.nextOp dom op dom') u := by
  cases hc : (s.rowAt dom op).continues with
  | none => exact runRow_ends rfl hx hc
  | some dom' => exact runRow_continues rfl hx hc

/-- A row answers a next state if its continuation does. -/
theorem runRow_answers
    (hk : ∀ dom' u, (s.rowAt dom op).continues = some dom' → ∃ t, k dom' (s.nextOp dom op dom') u = .next t) :
    ∃ t, runRow exec dom op s k = .next t := by
  obtain ⟨u, hx⟩ := exec_answers (s.rowAt dom op) (s.pastRow dom op)
  rw [runRow_eq hx]
  split
  · exact ⟨u, rfl⟩
  · next dom' hc => exact hk dom' u hc

/-- A row of a domain in which every row ends the instruction answers, whatever the continuation. -/
theorem runRow_answers_of_lastRow (hbase : dom ≠ .base) (hindex : ∀ x, dom ≠ .index x) :
    ∃ t, runRow exec dom op s k = .next t :=
  runRow_answers fun _ _ hc => nomatch (s.rowAt_continues_eq_none hbase hindex op).symm.trans hc

/-- The chain of rows that one instruction runs from a dispatching byte on, PC past that byte (R162, R163, R165). -/
inductive Runs : Domain → Byte → State → State → Prop
  | ends {dom : Domain} {op : Byte} {s t : State} (hc : (s.rowAt dom op).continues = none)
      (hx : exec (s.rowAt dom op) (s.pastRow dom op) = .next t) : Runs dom op s t
  | continues {dom dom' : Domain} {op : Byte} {s u t : State} (hc : (s.rowAt dom op).continues = some dom')
      (hx : exec (s.rowAt dom op) (s.pastRow dom op) = .next u) (hrest : Runs dom' (s.nextOp dom op dom') u t) :
      Runs dom op s t

theorem Runs.of_runRow (h : runRow exec dom op s k = .next t)
    (hk : ∀ dom' u, (s.rowAt dom op).continues = some dom' → k dom' (s.nextOp dom op dom') u = .next t →
      Runs dom' (s.nextOp dom op dom') u t) : Runs dom op s t := by
  obtain ⟨u, hx⟩ := exec_answers (s.rowAt dom op) (s.pastRow dom op)
  rw [runRow_eq hx] at h
  split at h
  · next hc => exact .ends hc (Host.Outcome.next.inj h ▸ hx)
  · next dom' hc => exact .continues hc hx (hk dom' u hc h)

/-- A row of a domain in which every row ends the instruction. -/
theorem Runs.of_lastRow (hbase : dom ≠ .base) (hindex : ∀ x, dom ≠ .index x) (h : runRow exec dom op s k = .next t) :
    Runs dom op s t :=
  .of_runRow h fun _ _ hc => nomatch (s.rowAt_continues_eq_none hbase hindex op).symm.trans hc

/-- What `dispatch` answers is the end of a chain of rows. -/
theorem Runs.of_dispatch {n : Nat} (h : dispatch exec n op s = .next t) : Runs .base op s t := by
  induction n generalizing op s with
  | zero =>
    rw [dispatch] at h
    split at h
    · cases h
    · next hop =>
      refine .of_runRow h fun dom u hc h' => ?_
      rcases decodeOp_base_continues hc with rfl | rfl | ⟨x, rfl, -⟩
      · exact .of_lastRow nofun nofun h'
      · exact .of_lastRow nofun nofun h'
      · exact absurd (isIndexByte_byte x) hop
  | succ n ih =>
    refine .of_runRow h fun dom u hc h' => ?_
    rcases decodeOp_base_continues hc with rfl | rfl | ⟨x, -, rfl⟩
    · exact .of_lastRow nofun nofun h'
    · exact .of_lastRow nofun nofun h'
    · refine .of_runRow h' fun dom' u' hc' h'' => ?_
      rcases decodeOp_index_continues hc' with ⟨d, rfl⟩ | ⟨rfl, -⟩
      · exact .of_lastRow nofun nofun h''
      · exact ih h''

/-- What operand reads and every instruction keep, the whole chain keeps. -/
theorem Runs.keeps {α : Type} {field : State → α} (hfetch : ∀ (s : State) n, field (s.fetchOperands n) = field s)
    (hexec : ∀ i (s t : State), exec i s = .next t → field t = field s) (h : Runs dom op s t) : field t = field s := by
  induction h with
  | ends _ hx => rw [hexec _ _ _ hx, State.pastRow, hfetch]
  | continues _ hx _ ih => rw [ih, hexec _ _ _ hx, State.pastRow, hfetch]

end

end Sys2Proof.Machine
end

section
/-!
PROOFS. What a step can do (`step_cases`), and what every step keeps: lastPC and the breakpoints (O11), the canonical form of
memory, the EI delay and the HALT state, which together are the invariant (O2, O3).
-/

namespace Sys2Proof.Machine

/-! ## The step, by cases -/

/-- A step that accepts no NMI and answers `t`: its `dispatch` answers, and phase 7 ends it. -/
theorem dispatch_of_step {s t : State} (hnmi : s.activeNMI = false) (h : step s = .next t) :
    ∃ u, dispatch exec (Config.chainLimit - 1) (s.atFetch.byteAt s.atFetch.pc) s.atFetch.fetchOpcode = .next u ∧
      t = u.endStep (s.atFetch.byteAt s.atFetch.pc) := by
  rw [step_of_no_nmi hnmi] at h
  split at h
  · next u hu => exact ⟨u, hu, (Host.Outcome.next.inj h).symm⟩
  · cases h
  · cases h

/-- A step that answers `t` accepts an NMI, or runs the chain of rows that starts with the byte it fetches first. -/
theorem step_cases {s t : State} (h : step s = .next t) :
    s.activeNMI = true ∧ t = s.beginStep.acceptNMI ∨
      s.activeNMI = false ∧ ∃ u, Runs .base (s.atFetch.byteAt s.atFetch.pc) s.atFetch.fetchOpcode u ∧
        t = u.endStep (s.atFetch.byteAt s.atFetch.pc) := by
  cases hnmi : s.activeNMI with
  | true =>
    rw [step_of_nmi hnmi] at h
    exact .inl ⟨rfl, (Host.Outcome.next.inj h).symm⟩
  | false =>
    obtain ⟨u, hu, rfl⟩ := dispatch_of_step hnmi h
    exact .inr ⟨rfl, u, .of_dispatch hu, rfl⟩

/-- A chain whose first row ends the instruction is that row. -/
theorem Runs.exec_eq {dom : Domain} {op : Byte} {s t : State} (h : Runs dom op s t)
    (hc : (s.rowAt dom op).continues = none) : exec (s.rowAt dom op) (s.pastRow dom op) = .next t := by
  cases h with
  | ends _ hx => exact hx
  | continues hc' => cases hc.symm.trans hc'

/-! ## The fields that no instruction writes (R59, R60) -/

theorem State.atFetch_lastPC_bp (s : State) : (s.atFetch.lastPC, s.atFetch.bp) = (s.pc, s.bp) := by
  cases h : s.intAccepted with
  | true =>
    rw [State.atFetch_of_int h, State.checkBreakpoint_eq, State.acceptINT_eq]
    rfl
  | false => rw [State.atFetch_of_no_int h]

theorem State.fetchOpcode_lastPC_bp (s : State) : (s.fetchOpcode.lastPC, s.fetchOpcode.bp) = (s.lastPC, s.bp) := by
  rw [State.fetchOpcode_eq]

theorem Runs.lastPC_bp {dom : Domain} {op : Byte} {s t : State} (h : Runs dom op s t) :
    (t.lastPC, t.bp) = (s.lastPC, s.bp) := by
  refine h.keeps (field := fun s => (s.lastPC, s.bp)) (fun s n => by rw [State.fetchOperands_eq]) fun i s t hx => ?_
  obtain ⟨-, -, -, -, -, -, -, -, -, -, -, -, -, hlast, hbp⟩ := whichInstructionsReachWhichState i s t hx
  rw [hlast, hbp]

theorem step_lastPC_bp {s t : State} (h : step s = .next t) : t.lastPC = s.pc ∧ t.bp = s.bp := by
  rw [← Prod.mk.injEq]
  rcases step_cases h with ⟨-, rfl⟩ | ⟨-, u, hu, rfl⟩
  · rw [State.acceptNMI_eq]
    rfl
  · exact (hu.lastPC_bp.trans s.atFetch.fetchOpcode_lastPC_bp).trans s.atFetch_lastPC_bp

/-- Settles O11: `beginStep` writes lastPC, and nothing after it does. -/
theorem lastPcIsThePcTheStepBeganAt : Obligations.LastPcIsThePcTheStepBeganAt := fun _ _ h => (step_lastPC_bp h).1

/-! ## Memory in canonical form (R100) -/

/-- Stores keep the canonical form. -/
theorem replayWrites_wf {evs : List Event} {m : Memory} (h : m.wf = true) : (replayWrites evs m).wf = true := by
  induction evs generalizing m with
  | nil => exact h
  | cons ev rest ih =>
    cases ev with
    | memWrite p v => exact ih (Memory.write_wf p.isLt h)
    | _ => exact ih h

/-- All that a step does to memory is the stores in its event list. -/
theorem step_mem_wf {s t : State} (hs : s.mem.wf = true) (h : step s = .next t) : t.mem.wf = true := by
  rw [eventsTellMemoryAndPorts.2 s t h]
  exact replayWrites_wf hs

/-! ## The EI delay (R583, R606) -/

theorem State.endStep_pendingEI (s : State) (op : Byte) :
    (s.endStep op).pendingEI = true ↔ s.pendingEI = true ∧ op = 0xFB := by
  simp [State.endStep]

/-- A chain that starts with the byte 0xFB is EI. -/
theorem Runs.eq_of_ei {s t : State} (h : Runs .base 0xFB s t) :
    t = { s with iff1 := true, iff2 := true, pendingEI := true } :=
  (Host.Outcome.next.inj (h.exec_eq rfl)).symm

/-- The delay is in effect after a step only if the step ran EI, which sets IFF2, or accepted an NMI, which keeps it. -/
theorem step_pendingEI_imp_iff2 {s t : State} (hs : s.pendingEI = true → s.iff2 = true) (h : step s = .next t)
    (ht : t.pendingEI = true) : t.iff2 = true := by
  rcases step_cases h with ⟨-, rfl⟩ | ⟨-, u, hu, rfl⟩
  · rw [State.acceptNMI_eq] at ht ⊢
    exact hs ht
  · obtain ⟨-, hop⟩ := (State.endStep_pendingEI u _).mp ht
    rw [hop] at hu
    rw [hu.eq_of_ei]
    rfl

/-! ## The HALT state (R581) -/

/-- The core is not halted, or it stands on a HALT opcode. -/
def State.HaltInv (s : State) : Prop := s.halted = true → s.byteAt s.pc = 0x76

/-- The byte that selects HALT, of all rows of all domains. -/
theorem State.rowAt_eq_halt {s : State} {dom : Domain} {op : Byte} (h : s.rowAt dom op = .halt) : op = 0x76 := by
  have hbytes := (decodeOp_sound dom op (s.byteAt s.pc) (s.byteAt (s.pc + 1))).2.2
  rw [← State.rowAt, h] at hbytes
  exact (List.cons.inj hbytes).1.symm

theorem State.rowAt_halt (s : State) : s.rowAt .base 0x76 = .halt := rfl

theorem State.byteAt_pred_pc_fetchOpcode (s : State) : s.fetchOpcode.byteAt (s.fetchOpcode.pc - 1) = s.byteAt s.pc := by
  rw [State.fetchOpcode_eq]
  exact congrArg s.byteAt (BitVec.add_sub_cancel s.pc 1)

theorem State.pastRow_halted (s : State) (dom : Domain) (op : Byte) : (s.pastRow dom op).halted = s.halted := by
  rw [State.pastRow, State.fetchOperands_eq]

theorem exec_halted {i : Instr} {s t : State} (hi : i ≠ .halt) (h : exec i s = .next t) : t.halted = s.halted := by
  obtain ⟨-, -, -, -, -, -, -, -, hhalted, -⟩ := whichInstructionsReachWhichState i s t h
  exact hhalted hi

/-- After a row that continues, the next dispatching byte is the one before PC, as it was for the row itself (R163, R165). -/
theorem byteAt_pred_pc_of_continues {dom dom' : Domain} {op : Byte} {s u : State} (hop : s.byteAt (s.pc - 1) = op)
    (hc : (s.rowAt dom op).continues = some dom') (hx : exec (s.rowAt dom op) (s.pastRow dom op) = .next u) :
    u.byteAt (u.pc - 1) = s.nextOp dom op dom' := by
  have hfetched {v : State} (hv : u.mem = v.mem ∧ u.pc = v.pc + 1) : u.byteAt (u.pc - 1) = v.byteAt v.pc := by
    rw [State.byteAt_of_mem_eq hv.1, hv.2, BitVec.add_sub_cancel]
  rcases Instr.eq_of_continues hc with ⟨hi, rfl⟩ | ⟨hi, rfl⟩ | ⟨x, hi, rfl⟩ | ⟨x, d, hi, rfl⟩ | ⟨x, b, hi, rfl⟩
  case inr.inr.inr.inr =>
    rw [State.pastRow, hi] at hx
    obtain rfl : s = u := Host.Outcome.next.inj hx
    exact hop
  all_goals
    rw [hi] at hx
    rw [State.nextOp, if_neg nofun]
    apply hfetched
    generalize s.pastRow dom op = v at hx ⊢
  · exact Host.Outcome.next.inj hx ▸ ⟨rfl, rfl⟩
  · exact Host.Outcome.next.inj hx ▸ ⟨rfl, rfl⟩
  · exact Host.Outcome.next.inj ((exec_leadRow x _).symm.trans hx) ▸ ⟨rfl, rfl⟩
  · exact Host.Outcome.next.inj hx ▸ ⟨rfl, rfl⟩

/-- A chain leaves the core halted only by HALT, which puts PC back on the byte it was selected by. -/
theorem Runs.haltInv {dom : Domain} {op : Byte} {s t : State} (h : Runs dom op s t) (hop : s.byteAt (s.pc - 1) = op)
    (hs : s.halted = true → s.rowAt dom op = .halt) : t.HaltInv := by
  induction h with
  | @ends dom op s t hc hx =>
    by_cases hi : s.rowAt dom op = .halt
    · rw [State.pastRow, hi] at hx
      obtain rfl := Host.Outcome.next.inj hx
      exact fun _ => hop.trans (State.rowAt_eq_halt hi)
    · intro ht
      rw [exec_halted hi hx, State.pastRow_halted] at ht
      exact absurd (hs ht) hi
  | @continues dom dom' op s u t hc hx _ ih =>
    have hi : s.rowAt dom op ≠ .halt := fun hi => by
      rw [hi] at hc
      cases hc
    refine ih (byteAt_pred_pc_of_continues hop hc hx) fun hu => ?_
    rw [exec_halted hi hx, State.pastRow_halted] at hu
    exact absurd (hs hu) hi

theorem State.fetchOpcode_halted (s : State) : s.fetchOpcode.halted = s.halted := by rw [State.fetchOpcode_eq]

theorem State.HaltInv.endStep {s : State} (h : s.HaltInv) (op : Byte) : (s.endStep op).HaltInv := h

theorem State.HaltInv.atFetch {s : State} (h : s.HaltInv) : s.atFetch.HaltInv := by
  cases hint : s.intAccepted with
  | true =>
    rw [State.atFetch_of_int hint, State.checkBreakpoint_eq, State.acceptINT_eq]
    exact nofun
  | false =>
    rw [State.atFetch_of_no_int hint]
    exact h

theorem step_haltInv {s t : State} (hs : s.HaltInv) (h : step s = .next t) : t.HaltInv := by
  rcases step_cases h with ⟨-, rfl⟩ | ⟨-, u, hu, rfl⟩
  · rw [State.acceptNMI_eq]
    exact nofun
  · refine (hu.haltInv s.atFetch.byteAt_pred_pc_fetchOpcode fun hhalted => ?_).endStep _
    rw [State.fetchOpcode_halted] at hhalted
    rw [hs.atFetch hhalted, State.rowAt_halt]

/-! ## The invariant -/

/-- Settles O2: nothing is listed in memory or in the breakpoint matrix, and both bits are clear. -/
theorem resetMeetsInvariant : Obligations.ResetMeetsInvariant := ⟨State.reset_mem_wf, rfl, nofun, nofun⟩

/-- Settles O3: each part of the invariant is kept by itself. -/
theorem stepKeepsInvariant : Obligations.StepKeepsInvariant := by
  rintro s t ⟨hmem, hbp, hei, hhalt⟩ h
  exact ⟨step_mem_wf hmem h, (step_lastPC_bp h).2 ▸ hbp, step_pendingEI_imp_iff2 hei h, step_haltInv hhalt h⟩

end Sys2Proof.Machine
end

section
/-!
PROOFS. A step that fetches the encoding of an instruction runs that instruction (O9): the rows that lead into its domain
one after the other, then its own row. HALT run again (O15) and EI (O14) are the step on one known byte.
-/

namespace Sys2Proof.Machine

/-! ## Bytes of an encoding in memory -/

theorem Word.add_one_add_ofNat (p : Word) (k : Nat) : p + 1 + BitVec.ofNat 16 k = p + BitVec.ofNat 16 (k + 1) := by
  rw [BitVec.add_assoc, BitVec.add_comm 1, BitVec.ofNat_add]
  rfl

theorem State.bytesFrom_add (s : State) (p : Word) (m n : Nat) :
    s.bytesFrom p (m + n) = s.bytesFrom p m ++ s.bytesFrom (p + BitVec.ofNat 16 m) n := by
  induction m generalizing p with
  | zero =>
    rw [Nat.zero_add, BitVec.add_zero]
    rfl
  | succ m ih =>
    rw [Nat.succ_add, State.bytesFrom, ih, Word.add_one_add_ofNat]
    rfl

theorem State.bytesFrom_of_mem_eq {s t : State} (h : t.mem = s.mem) (p : Word) (n : Nat) :
    t.bytesFrom p n = s.bytesFrom p n := by
  induction n generalizing p with
  | zero => rfl
  | succ n ih => rw [State.bytesFrom, State.bytesFrom, ih, State.byteAt_of_mem_eq h]

/-- Where the operand bytes of a well-formed instruction stand at PC, its dispatching byte selects it. -/
theorem State.rowAt_of_bytesFrom {i : Instr} {s : State} {op : Byte} {ops : List Byte} (hwf : i.wf = true)
    (hbytes : i.rowBytes = op :: ops) (hs : s.bytesFrom s.pc ops.length = ops) : s.rowAt i.domain op = i := by
  have hstream : ops ++ s.bytesFrom (s.pc + BitVec.ofNat 16 ops.length) 2 = s.bytesFrom s.pc (ops.length + 2) := by
    rw [State.bytesFrom_add, hs]
  have hrow := i.readsBack hwf (s.bytesFrom (s.pc + BitVec.ofNat 16 ops.length) 2)
  rw [hbytes, List.cons_append, hstream, decodeRow_eq_ok] at hrow
  exact hrow.1.symm

/-- The row of such an instruction, if it is no prefix, ends the chain. -/
theorem runRow_of_bytesFrom {i : Instr} {s : State} {dom : Domain} {op : Byte} {ops : List Byte}
    {k : Domain → Byte → State → Result} (hwf : i.wf = true) (hc : i.continues = none) (hdom : i.domain = dom)
    (hbytes : i.rowBytes = op :: ops) (hs : s.bytesFrom s.pc ops.length = ops) :
    runRow exec dom op s k = exec i (s.fetchOperands i.operandCount) := by
  obtain ⟨t, ht⟩ := exec_answers i (s.fetchOperands i.operandCount)
  rw [ht, runRow_ends (hdom ▸ State.rowAt_of_bytesFrom hwf hbytes hs) ht hc]

@[simp] theorem State.fetchOpcode_pc (s : State) : s.fetchOpcode.pc = s.pc + 1 := by rw [State.fetchOpcode_eq]

@[simp] theorem State.fetchOpcode_mem (s : State) : s.fetchOpcode.mem = s.mem := by rw [State.fetchOpcode_eq]

/-! ## The chain that an encoding makes `dispatch` run -/

/-- The state in which the meaning of an instruction runs, from the one in which only its first byte is fetched. -/
def State.readyFor (s : State) (i : Instr) : State :=
  match i.domain with
  | .base => s.fetchOperands i.operandCount
  | .cb | .ed | .index _ => s.m1.fetchOperands i.operandCount
  | .indexCB x d => (s.m1.fetchOperand.fetchOperand.indexed x d).fetchOperands i.operandCount

theorem Instr.exists_rowBytes_cons {i : Instr} (hwf : i.wf = true) : ∃ op ops, i.rowBytes = op :: ops := by
  cases h : i.rowBytes with
  | nil =>
    have hrow := i.readsBack hwf []
    rw [h] at hrow
    cases hrow
  | cons op ops => exact ⟨op, ops, rfl⟩

/-- What `dispatch` does after a row of the DD/FD domain. -/
def dispatchAfterIndexRow (n : Nat) (dom : Domain) (op : Byte) (s : State) : Result :=
  match dom with
  | .base => dispatch exec n op s
  | .cb | .ed | .index _ | .indexCB _ _ => runRow exec dom op s fun _ _ t => .next t

/-- A DD or FD byte: the next byte is fetched and dispatched in the DD/FD domain (R161, R162). -/
theorem dispatch_byte (s : State) (x : IndexReg) (n : Nat) :
    dispatch exec (n + 1) x.byte s = runRow exec (.index x) (s.byteAt s.pc) s.m1 (dispatchAfterIndexRow n) := by
  have hexec : exec x.leadRow (s.fetchOperands x.leadRow.operandCount) = .next s.m1 := by
    rw [operandCount_leadRow]
    exact exec_leadRow x s
  rw [dispatch, runRow_continues (decodeOp_base_byte x _ _) hexec x.continues_leadRow, if_neg nofun,
    operandCount_leadRow, State.fetchOperands]
  rfl

/-- The row of CB in the DD/FD domain: the displacement and the byte after it are read, and that byte dispatched with the
effective address in MEMPTR (R165). -/
theorem runRow_prefixXCB {s : State} {x : IndexReg} {d op : Byte} {k : Domain → Byte → State → Result}
    (hd : s.byteAt s.pc = d) (hop : s.byteAt (s.pc + 1) = op) :
    runRow exec (.index x) 0xCB s k = k (.indexCB x d) op (s.fetchOperand.fetchOperand.indexed x d) := by
  have hrow : s.rowAt (.index x) 0xCB = .prefixXCB x d :=
    State.rowAt_of_bytesFrom (i := .prefixXCB x d) rfl rfl (congrArg (fun v => [v]) hd)
  have hread : s.fetchOperands (Instr.prefixXCB x d).operandCount = s.fetchOperand := rfl
  have hexec : exec (.prefixXCB x d) (s.fetchOperands (Instr.prefixXCB x d).operandCount) =
      .next (s.fetchOperand.fetchOperand.indexed x d) := congrArg (exec (.prefixXCB x d)) hread
  rw [runRow_continues hrow hexec rfl, if_neg nofun, hread, State.fetchOperand_pc,
    State.byteAt_of_mem_eq s.fetchOperand_mem, hop]

/-- `dispatch` on the first byte of an encoding whose other bytes stand at PC. -/
theorem dispatch_of_encode {i : Instr} {s : State} {op : Byte} {rest : List Byte} (n : Nat) (hwf : i.wf = true)
    (hc : i.continues = none) (henc : encode i = op :: rest) (hs : s.bytesFrom s.pc rest.length = rest) :
    dispatch exec (n + 1) op s = exec i (s.readyFor i) := by
  obtain ⟨b, ops, hbytes⟩ := Instr.exists_rowBytes_cons hwf
  rw [encode, hbytes] at henc
  have hm1 (m : Nat) : s.m1.bytesFrom s.m1.pc m = s.bytesFrom (s.pc + 1) m :=
    State.bytesFrom_of_mem_eq (t := s.m1) (s := s) rfl (s.pc + 1) m
  cases hdom : i.domain with
  | base =>
    rw [hdom] at henc
    obtain ⟨rfl, rfl⟩ := List.cons.inj henc
    simp only [State.readyFor, hdom]
    exact runRow_of_bytesFrom hwf hc hdom hbytes hs
  | cb | ed =>
    rw [hdom] at henc
    obtain ⟨rfl, rfl⟩ := List.cons.inj henc
    obtain ⟨hb, hops⟩ := List.cons.inj hs
    simp only [State.readyFor, hdom]
    rw [dispatch, runRow_continues (t := s.m1) rfl rfl rfl]
    exact hb ▸ runRow_of_bytesFrom hwf hc hdom hbytes ((hm1 _).trans hops)
  | index x =>
    rw [hdom] at henc
    obtain ⟨rfl, rfl⟩ := List.cons.inj henc
    obtain ⟨hb, hops⟩ := List.cons.inj hs
    simp only [State.readyFor, hdom]
    rw [dispatch_byte, hb]
    exact runRow_of_bytesFrom hwf hc hdom hbytes ((hm1 _).trans hops)
  | indexCB x d =>
    rw [hdom] at henc
    obtain ⟨rfl, rfl⟩ := List.cons.inj henc
    obtain ⟨hcb, hrest⟩ := List.cons.inj hs
    obtain ⟨hd, hrest⟩ := List.cons.inj hrest
    obtain ⟨hb, hops⟩ := List.cons.inj hrest
    have hbytesAt (m : Nat) : (s.m1.fetchOperand.fetchOperand.indexed x d).bytesFrom
        (s.m1.fetchOperand.fetchOperand.indexed x d).pc m = s.bytesFrom (s.pc + 1 + 1 + 1) m := by
      rw [State.indexed_pc, State.fetchOperand_pc, State.fetchOperand_pc, State.m1_pc]
      apply State.bytesFrom_of_mem_eq
      simp only [State.indexed_mem, State.fetchOperand_mem, State.m1_mem]
    simp only [State.readyFor, hdom]
    rw [dispatch_byte, hcb, runRow_prefixXCB (s := s.m1) hd hb, dispatchAfterIndexRow]
    exact runRow_of_bytesFrom hwf hc hdom hbytes ((hbytesAt _).trans hops)

/-! ## The state that the encoding leads to -/

/-- `m` M1 fetches and `n` operand reads after them. -/
theorem State.fetchOperands_afterFetches (s : State) (m n : Nat) :
    (s.afterFetches m).fetchOperands n = { s with
      pc := s.pc + BitVec.ofNat 16 (m + n), r := refreshAfter s.r m
      events := s.events ++ (List.range (m + n)).map fun k =>
        if k < m then Event.fetch (s.pc + BitVec.ofNat 16 k) else Event.memRead (s.pc + BitVec.ofNat 16 k) } := by
  have hfetches : ((List.range m).map fun k =>
      if k < m then Event.fetch (s.pc + BitVec.ofNat 16 k) else Event.memRead (s.pc + BitVec.ofNat 16 k)) =
      (List.range m).map fun k => Event.fetch (s.pc + BitVec.ofNat 16 k) :=
    List.map_congr_left fun k hk => if_pos (List.mem_range.mp hk)
  rw [State.fetchOperands_eq, List.range_add, List.map_append, hfetches, List.map_map]
  simp [State.afterFetches, Function.comp_def, BitVec.add_assoc, BitVec.ofNat_add]

theorem State.fetchOperands_add (s : State) (m n : Nat) :
    s.fetchOperands (m + n) = (s.fetchOperands m).fetchOperands n := by
  induction m generalizing s with
  | zero => rw [Nat.zero_add, State.fetchOperands]
  | succ m ih => rw [Nat.succ_add, State.fetchOperands, ih, State.fetchOperands]

/-- Forming an address and reading operands do not disturb each other. -/
theorem State.fetchOperands_indexed (s : State) (x : IndexReg) (d : Byte) (n : Nat) :
    (s.indexed x d).fetchOperands n = (s.fetchOperands n).indexed x d := by
  rw [State.fetchOperands_eq, State.fetchOperands_eq]
  cases x <;> rfl

theorem Instr.length_encode {i : Instr} (hwf : i.wf = true) :
    (encode i).length = i.domain.lead.length + i.operandCount + 1 := by
  obtain ⟨op, ops, hbytes⟩ := Instr.exists_rowBytes_cons hwf
  rw [encode, List.length_append, Instr.operandCount, hbytes]
  rfl

theorem State.afterFetches_one (s : State) : s.afterFetches 1 = s.m1 := by
  rw [← State.afterFetches_m1, State.afterFetches_zero]

theorem State.m1_afterFetches_one (s : State) : (s.afterFetches 1).m1 = s.afterFetches 2 := by
  rw [State.afterFetches_one, ← State.afterFetches_one s.m1, State.afterFetches_m1]

/-- The first fetch of the step clears flagQ (R605). -/
theorem State.fetchOpcode_eq_afterFetches (s : State) :
    s.fetchOpcode = ({ s with flagQ := false } : State).afterFetches 1 := by
  rw [State.fetchOpcode_eq]
  simp [State.afterFetches]

/-- The state in which the instruction at PC runs, written out. -/
theorem State.readyFor_fetchOpcode {i : Instr} (hwf : i.wf = true) (s : State) :
    s.fetchOpcode.readyFor i = { s with
      pc := s.pc + BitVec.ofNat 16 (encode i).length, r := refreshAfter s.r (m1Count i), flagQ := false
      memptr := memptrAtStart i s
      events := s.events ++ (List.range (encode i).length).map fun k =>
        if k < m1Count i then Event.fetch (s.pc + BitVec.ofNat 16 k)
        else Event.memRead (s.pc + BitVec.ofNat 16 k) } := by
  cases hdom : i.domain with
  | base =>
    have hlen : (encode i).length = 1 + i.operandCount := by
      rw [Instr.length_encode hwf, hdom, Domain.lead, List.length_nil, Nat.zero_add, Nat.add_comm]
    simp only [State.readyFor, m1Count, memptrAtStart, hdom, hlen, State.fetchOpcode_eq_afterFetches,
      State.fetchOperands_afterFetches]
  | cb | ed | index x =>
    have hlen : (encode i).length = 2 + i.operandCount := by
      rw [Instr.length_encode hwf, hdom, Domain.lead, List.length_singleton]
      omega
    simp only [State.readyFor, m1Count, memptrAtStart, hdom, hlen, State.fetchOpcode_eq_afterFetches,
      State.m1_afterFetches_one, State.fetchOperands_afterFetches]
  | indexCB x d =>
    have hlen : (encode i).length = 2 + (1 + 1 + i.operandCount) := by
      rw [Instr.length_encode hwf, hdom, Domain.lead]
      simp only [List.length_cons, List.length_nil]
      omega
    have hreads (u : State) (m : Nat) : (u.fetchOperand.fetchOperand.indexed x d).fetchOperands m =
        (u.fetchOperands (1 + 1 + m)).indexed x d := by
      rw [State.fetchOperands_indexed, State.fetchOperands_add]
      rfl
    simp only [State.readyFor, m1Count, memptrAtStart, hdom, hlen, hreads, State.fetchOpcode_eq_afterFetches,
      State.m1_afterFetches_one]
    rw [State.fetchOperands_afterFetches]
    cases x <;> rfl

/-! ## The step -/

/-- A step whose `dispatch` answers. -/
theorem step_of_dispatch {s t : State} (hnmi : s.activeNMI = false)
    (h : dispatch exec (Config.chainLimit - 1) (s.atFetch.byteAt s.atFetch.pc) s.atFetch.fetchOpcode = .next t) :
    step s = .next (t.endStep (s.atFetch.byteAt s.atFetch.pc)) := by
  rw [step_of_no_nmi hnmi, h]

/-- Settles O9: `dispatch_of_encode` on the bytes that the step fetches. -/
theorem stepRunsTheDecodedInstruction : Obligations.StepRunsTheDecodedInstruction := by
  intro s i hwf hc hnmi s1 len hbytes
  obtain ⟨op, rest, henc⟩ := List.exists_cons_of_length_eq_add_one (Instr.length_encode hwf)
  have hstream : s1.bytesFrom s1.pc (rest.length + 1) = op :: rest := by
    rw [← henc, ← hbytes]
    exact congrArg (s1.bytesFrom s1.pc) (congrArg List.length henc).symm
  obtain ⟨hop, hrest⟩ := List.cons.inj hstream
  have hrest' : s1.fetchOpcode.bytesFrom s1.fetchOpcode.pc rest.length = rest := by
    rw [State.fetchOpcode_pc, State.bytesFrom_of_mem_eq s1.fetchOpcode_mem, hrest]
  obtain ⟨t, ht⟩ := exec_answers i (s1.fetchOpcode.readyFor i)
  have hstep := step_of_dispatch hnmi (hop ▸ (dispatch_of_encode 65534 hwf hc henc hrest').trans ht)
  rw [State.readyFor_fetchOpcode hwf] at ht
  rw [hstep, ht, hop, henc]
  simp [State.endStep, beq_eq_decide]

/-! ## HALT run again (R581, R670) -/

theorem dispatch_halt (n : Nat) (s : State) :
    dispatch exec (n + 1) 0x76 s = .next { s with halted := true, pc := s.pc - 1 } :=
  runRow_ends (i := .halt) rfl rfl rfl

/-- Settles O15: the step on the byte 0x76; PC goes past it and back. -/
theorem haltedCoreRepeatsHalt : Obligations.HaltedCoreRepeatsHalt := by
  intro s hhalted hbyte hnmi hint
  have hatFetch : s.atFetch = { s with lastPC := s.pc, events := _ } :=
    State.atFetch_of_no_int (by rwa [← Bool.not_eq_true, State.intAccepted_iff])
  have hop : s.atFetch.byteAt s.atFetch.pc = 0x76 := by
    rw [hatFetch]
    exact hbyte
  have hstep := step_of_dispatch hnmi (hop.symm ▸ dispatch_halt 65534 s.atFetch.fetchOpcode)
  rw [hop, State.fetchOpcode_eq, hatFetch] at hstep
  refine ⟨_, hstep, .of_mem_eq rfl, ?_⟩
  simp [State.endStep, hhalted]

/-! ## The instruction after EI (R583, R606, R615) -/

/-- While the EI delay is in effect no level of INT is accepted. -/
theorem State.intAccepted_setINT {s : State} (h : s.pendingEI = true) (level : Bool) :
    (s.setINT level).intAccepted = false := by
  simp [State.intAccepted, State.setINT, h]

/-- Settles O14: the chain of the byte 0xFB is EI, and the end of the step keeps the delay for that byte alone. -/
theorem eiShadow : Obligations.EiShadow := by
  intro s t hnmi h
  obtain ⟨h', -⟩ | ⟨-, u, hu, rfl⟩ := step_cases h
  · cases hnmi.symm.trans h'
  refine ⟨fun hop => ?_, fun hop => ?_⟩
  · rw [hop] at hu ⊢
    have hei : (u.endStep 0xFB).pendingEI = true := by
      rw [State.endStep_pendingEI, hu.eq_of_ei]
      exact ⟨rfl, rfl⟩
    refine ⟨?_, ?_, hei, fun level => ?_⟩
    · rw [hu.eq_of_ei]
      rfl
    · rw [hu.eq_of_ei]
      rfl
    · rw [State.atFetch_of_no_int (State.intAccepted_setINT hei level)]
      exact ⟨rfl, rfl⟩
  · rw [← Bool.not_eq_true, State.endStep_pendingEI]
    exact fun hei => hop hei.2

end Sys2Proof.Machine
end

section
/-!
PROOFS. What stops a step: only a chain of DD and FD bytes as long as the step may consume (R164), and 65,536 of them in a row
fill memory. O4.
-/

namespace Sys2Proof.Machine

theorem isIndexByte_iff (op : Byte) : isIndexByte op = true ↔ ∃ x : IndexReg, op = x.byte := by
  refine ⟨fun h => ?_, fun ⟨x, hx⟩ => hx ▸ isIndexByte_byte x⟩
  simp only [isIndexByte, Bool.or_eq_true, beq_iff_eq] at h
  rcases h with h | h
  · exact ⟨.ix, h⟩
  · exact ⟨.iy, h⟩

/-- A byte that is no DD or FD prefix: the instruction ends with its row, or with the row after a CB or ED prefix. -/
theorem dispatch_answers_of_not_isIndexByte {op : Byte} (h : ¬ isIndexByte op = true) (n : Nat) (s : State) :
    ∃ t, dispatch exec n op s = .next t := by
  cases n with
  | zero =>
    rw [dispatch, if_neg h]
    exact runRow_answers fun _ _ _ => runRow_answers fun _ u _ => ⟨u, rfl⟩
  | succ n =>
    refine runRow_answers fun dom u hc => ?_
    rcases decodeOp_base_continues hc with rfl | rfl | ⟨x, rfl, -⟩
    · exact runRow_answers_of_lastRow nofun nofun
    · exact runRow_answers_of_lastRow nofun nofun
    · exact absurd (isIndexByte_byte x) h

/-- A DD or FD byte before a byte of the DD/FD set: the instruction ends with the row of that byte, or after DD/FD CB. -/
theorem dispatch_answers_of_inIndexSet (x : IndexReg) (n : Nat) {s : State} (h : inIndexSet (s.byteAt s.pc) = true) :
    ∃ t, dispatch exec (n + 1) x.byte s = .next t := by
  rw [dispatch_byte]
  refine runRow_answers fun dom u hc => ?_
  rcases decodeOp_index_continues hc with ⟨d, rfl⟩ | ⟨-, hset⟩
  · rw [dispatchAfterIndexRow]
    exact runRow_answers_of_lastRow nofun nofun
  · cases h.symm.trans hset

/-- `dispatch` answers unless every byte it may consume, from the one just fetched on, is a DD or FD prefix. -/
theorem dispatch_answers_or_prefixes (n : Nat) (s : State) :
    (∃ t, dispatch exec n (s.byteAt s.pc) s.m1 = .next t) ∨
      ∀ k ≤ n, isIndexByte (s.byteAt (s.pc + BitVec.ofNat 16 k)) = true := by
  induction n generalizing s with
  | zero =>
    by_cases hop : isIndexByte (s.byteAt s.pc) = true
    · refine .inr fun k hk => ?_
      rwa [Nat.le_zero.mp hk, BitVec.add_zero]
    · exact .inl (dispatch_answers_of_not_isIndexByte hop 0 _)
  | succ n ih =>
    by_cases hop : isIndexByte (s.byteAt s.pc) = true
    case neg => exact .inl (dispatch_answers_of_not_isIndexByte hop (n + 1) _)
    obtain ⟨x, hx⟩ := (isIndexByte_iff _).mp hop
    by_cases hset : inIndexSet (s.m1.byteAt s.m1.pc) = true
    case pos => exact .inl (hx ▸ dispatch_answers_of_inIndexSet x n hset)
    rcases ih s.m1 with hanswers | hprefixes
    · rw [hx, dispatch_byte_of_not_inIndexSet _ x n ((Bool.not_eq_true _).mp hset)]
      exact .inl hanswers
    · refine .inr fun k hk => ?_
      cases k with
      | zero => rwa [BitVec.add_zero]
      | succ k =>
        rw [← Word.add_one_add_ofNat]
        exact hprefixes k (Nat.le_of_succ_le_succ hk)

/-- The 65,536 bytes from any address on are all of memory. -/
theorem endlessChain_of_prefixes {s : State}
    (h : ∀ k ≤ 65535, isIndexByte (s.byteAt (s.pc + BitVec.ofNat 16 k)) = true) : EndlessChain s.mem := by
  intro p
  have hp : s.pc + BitVec.ofNat 16 (p - s.pc).toNat = p := by
    rw [BitVec.ofNat_toNat, BitVec.setWidth_eq, add_sub_cancel]
  have hbyte := h (p - s.pc).toNat (Nat.le_of_lt_succ (p - s.pc).isLt)
  rw [hp, isIndexByte, Bool.or_eq_true, beq_iff_eq, beq_iff_eq] at hbyte
  exact hbyte

/-- Settles O4: an endless chain hangs (O5), and nothing else keeps `dispatch` from answering. -/
theorem stepCompletesUnlessEndlessChain : Obligations.StepCompletesUnlessEndlessChain := by
  refine fun s => ⟨fun ⟨t, ht⟩ => ?_, fun h => ?_⟩
  · cases hnmi : s.activeNMI with
    | true => exact .inl rfl
    | false => exact .inr fun hchain => nomatch (endlessChainHangs s hnmi hchain).symm.trans ht
  · cases hnmi : s.activeNMI with
    | true => exact ⟨_, step_of_nmi hnmi⟩
    | false =>
      have hchain : ¬ EndlessChain s.atFetch.mem := h.resolve_left (by rw [hnmi]; exact nofun)
      rcases dispatch_answers_or_prefixes 65535 { s.atFetch with flagQ := false } with ⟨t, ht⟩ | hprefixes
      · exact ⟨_, step_of_dispatch hnmi ht⟩
      · exact absurd (endlessChain_of_prefixes hprefixes) hchain

end Sys2Proof.Machine
end

section
/-!
PROOFS. Taking an interrupt: O12 and O13. Both acceptances push the return address, and what else they write is in the
equations of Laws/Ops.lean; the breakpoint check after an INT acceptance adds at most one event.
-/

namespace Sys2Proof.Machine

/-- The two bytes on the stack of a state whose memory is that of `s` with a word pushed. -/
theorem stackBytes_of_mem_eq_push {s t : State} {w : Word} (h : t.mem = (s.push w).mem) :
    t.byteAt (s.sp - 1) = hi8 w ∧ t.byteAt (s.sp - 2) = lo8 w ∧ MemKeptOutside [s.sp - 1, s.sp - 2] s t := by
  obtain ⟨-, hhigh, hlow, hkept⟩ := s.push_pushed w
  have hbyte := State.byteAt_of_mem_eq h
  exact ⟨(hbyte _).trans hhigh, (hbyte _).trans hlow, fun p hp => (hbyte p).trans (hkept p hp)⟩

/-- The address that an accepted interrupt returns to: after the HALT opcode if the core is halted (R611, R620). -/
def State.returnAddress (s : State) : Word := if s.halted then s.pc + 1 else s.pc

/-! ## NMI (R611) -/

theorem State.acceptNMI_mem (s : State) : s.acceptNMI.mem = (s.push s.returnAddress).mem := by
  rw [State.acceptNMI_eq, State.push_eq]
  rfl

/-- Settles O12: `acceptNMI` right after the step has begun. -/
theorem nmiAcceptance : Obligations.NmiAcceptance := by
  intro s hnmi
  refine ⟨_, step_of_nmi hnmi, ?_⟩
  intro ret
  obtain ⟨hhigh, hlow, hkept⟩ := stackBytes_of_mem_eq_push s.beginStep.acceptNMI_mem
  refine ⟨hhigh, hlow, hkept, ?_⟩
  rw [State.acceptNMI_eq]
  rfl

/-! ## INT (R620 to R622, R630) -/

theorem State.acceptINT_mem (s : State) : s.acceptINT.mem = (s.push s.returnAddress).mem := by
  rw [State.acceptINT_eq, State.push_eq]
  rfl

theorem State.checkBreakpoint_mem (s : State) : s.checkBreakpoint.mem = s.mem := by rw [State.checkBreakpoint_eq]

/-- Settles O13: `acceptINT` or nothing, and then the breakpoint check. -/
theorem intAcceptance : Obligations.IntAcceptance := by
  intro s u ret vector target note
  have hnote (p : Word) : note p = if s.bp.contains p.toNat then [.notify] else [] :=
    if_congr List.contains_iff_mem.symm rfl rfl
  refine ⟨fun h => ?accepted, fun h => ?notAccepted⟩
  case accepted =>
    have hu : u = s.beginStep.acceptINT.checkBreakpoint := State.atFetch_of_int (s.intAccepted_iff.mpr h)
    have hmem : u.mem = (s.push s.returnAddress).mem := by
      rw [hu, State.checkBreakpoint_mem, State.acceptINT_mem]
      rfl
    obtain ⟨hhigh, hlow, hkept⟩ := stackBytes_of_mem_eq_push hmem
    refine ⟨hhigh, hlow, hkept, ?_⟩
    have htarget : target = s.beginStep.acceptINT.pc := by
      have hword : u.wordAt vector = ({ s with mem := u.mem } : State).wordAt vector := rfl
      simp only [target, hword, hmem, State.push_eq, State.acceptINT_eq]
      rfl
    rw [hnote, htarget, hu, State.checkBreakpoint_eq, State.acceptINT_eq]
    rfl
  case notAccepted =>
    have hint : s.intAccepted = false := by rwa [← Bool.not_eq_true, State.intAccepted_iff]
    rw [hnote]
    exact State.atFetch_of_no_int hint

end Sys2Proof.Machine
end

section
/-!
PROOFS. Input and output (47_io.md) and CPU control (48_cpu_control.md): O57 and O58. The equations of Laws/Instr.lean and
Laws/Ops.lean give the state each instruction answers.
-/

namespace Sys2Proof.Machine

/-! ## Input and output (R550 to R555) -/

/-- MEMPTR after OUT (n),A: the low byte wraps on its own (R551). -/
theorem mk16_add_one (a n : Byte) : mk16 a (n + 1) = BitVec.ofNat 16 (256 * a.toNat + (n.toNat + 1) % 256) := by
  rw [mk16_eq_ofNat, BitVec.toNat_add, Nat.add_comm]
  rfl

theorem exec_outNA (s : State) (n : Byte) :
    exec (.outNA n) s = .next { s with
      memptr := BitVec.ofNat 16 (256 * s.a.toNat + (n.toNat + 1) % 256)
      events := s.events ++ [.portWrite (mk16 s.a n) s.a] } := by
  rw [← mk16_add_one]
  rfl

/-- IN r,(C): of the registers A to L only r is written, after the port read and the flags (R552). -/
theorem State.inputC_setR8_frame (s : State) (r : Reg8) (v : Byte) :
    let t := s.inputC.2.setR8 r v
    t = { s with
      a := t.a, b := t.b, c := t.c, d := t.d, e := t.e, h := t.h, l := t.l, f := t.f, flagQ := true, memptr := s.bc + 1
      portIn := s.portIn.tail, portReads := s.portReads + 1
      events := s.events ++ [.portRead s.bc (s.portAnswer s.bc)] } := by
  cases r <;> rfl

/-- Settles O57: each port read is `portRead`, each write `portWrite`; IN r,(C) also writes its register. -/
theorem inputAndOutput : Obligations.InputAndOutput := by
  intro s n r bc v
  have hflags : ValueFlags v false false (flag .c s.f) (parityFlags v s.f) := parityFlags_flags v s.f
  have hsame : SameOperands s s.inputC.2 := ⟨fun j => by cases j <;> rfl, fun y => by cases y <;> rfl, rfl⟩
  refine ⟨⟨_, rfl, .of_mem_eq rfl, rfl⟩, ⟨_, rfl, Place.written_r r v hsame, ?_, s.inputC_setR8_frame r v⟩,
    ⟨_, rfl, .of_mem_eq rfl, hflags, rfl⟩, ⟨_, exec_outNA s n, .of_mem_eq rfl, rfl⟩, ⟨_, rfl, .of_mem_eq rfl, rfl⟩⟩
  rw [State.setR8_f]
  exact hflags

/-! ## CPU control (R580 to R585, R520, R521) -/

theorem State.returnFromInterrupt_frame (s : State) :
    s.returnFromInterrupt = { s with
      iff1 := s.iff2, pc := s.wordAt s.sp, memptr := s.wordAt s.sp, sp := s.sp + 2
      events := s.returnFromInterrupt.events } := by
  rw [State.returnFromInterrupt_eq]

theorem MemKept.returnFromInterrupt (s : State) : MemKept s s.returnFromInterrupt :=
  .of_mem_eq (by rw [State.returnFromInterrupt_eq])

/-- Settles O58: all but the two returns write out their next state in their own definitions. -/
theorem cpuControl : Obligations.CpuControl := fun s _ _ =>
  have returned := And.intro (MemKept.returnFromInterrupt s) s.returnFromInterrupt_frame
  ⟨⟨_, rfl, rfl⟩, ⟨_, rfl, rfl⟩, ⟨_, rfl, rfl⟩, ⟨_, rfl, rfl⟩, ⟨_, rfl, rfl⟩, ⟨_, rfl, rfl⟩, ⟨_, rfl, rfl⟩,
    ⟨_, rfl, rfl⟩, ⟨_, rfl, returned⟩, ⟨_, rfl, returned⟩, ⟨_, rfl, rfl⟩⟩

end Sys2Proof.Machine
end

section
/-!
PROOFS. Neither the breakpoint matrix nor the events made before reach what an instruction does (R630): run on a state with both
changed (`State.relog`) it answers the same next state with both changed alike, by a case for each group of instructions that
append events alike.
-/

namespace Sys2Proof.Machine

/-! ## Another breakpoint matrix and another past -/

/-- A breakpoint matrix, and a map of the events made so far that hands on every event but Notify appended to them. -/
structure Relog where
  bp : List Nat
  log : List Event → List Event
  log_append : ∀ es ev, ev ≠ .notify → log (es ++ [ev]) = log es ++ [ev]

theorem Relog.log_append_all (ρ : Relog) (es evs : List Event) (h : ∀ ev ∈ evs, ev ≠ .notify) :
    ρ.log (es ++ evs) = ρ.log es ++ evs := by
  induction evs generalizing es with
  | nil => rw [List.append_nil, List.append_nil]
  | cons ev rest ih =>
    obtain ⟨hev, hrest⟩ := List.forall_mem_cons.mp h
    rw [List.append_cons, ih _ hrest, ρ.log_append _ _ hev, ← List.append_cons]

/-- The state with the breakpoint matrix and the events so changed. -/
def State.relog (s : State) (ρ : Relog) : State := { s with bp := ρ.bp, events := ρ.log s.events }

/-- `u` is `t` so changed. -/
def Relogs (ρ : Relog) (t u : State) : Prop := u = t.relog ρ

/-- The modification computes the same value from the state so changed, and its writes go on from there. -/
def Modify.Relogs (ρ : Relog) (g : Modify) : Prop := ∀ s v, g (s.relog ρ) v = ((g s v).1, (g s v).2.relog ρ)

/-- The read-modify-write form (X+d),r: the new value goes to memory and to r (R458). -/
theorem State.modifyXdR_eq (s : State) (x : IndexReg) (d : Byte) (k : Reg8) (g : Modify) :
    s.modifyXdR x d k g =
      (let o := g (s.readXd x d).2 (s.byteAt (s.ea x d))
       (o.2.memWrite (s.ea x d) o.1).setR8 k o.1) := rfl

namespace Relogs
variable {ρ : Relog} {s t t' u u' : State}

theorem refl : Relogs ρ s (s.relog ρ) := rfl

theorem appends {es evs : List Event} (ht : t.events = es ++ evs)
    (hu : u = { t with bp := ρ.bp, events := ρ.log es ++ evs }) (h : ∀ ev ∈ evs, ev ≠ .notify := by simp) :
    Relogs ρ t u := by
  rw [Relogs, State.relog, ht, ρ.log_append_all es evs h]
  exact hu

theorem ite {c : Bool} (h : Relogs ρ t u) (h' : Relogs ρ t' u') :
    Relogs ρ (if c then t else t') (if c then u else u') := by
  cases c
  · exact h'
  · exact h

/-! What one more write does. -/

theorem emit {ev : Event} (h : Relogs ρ t u) (hev : ev ≠ .notify := by simp) : Relogs ρ (t.emit ev) (u.emit ev) := by
  obtain rfl := h
  exact .appends rfl rfl (by simpa using hev)

theorem memWrite {p : Word} {v : Byte} (h : Relogs ρ t u) : Relogs ρ (t.memWrite p v) (u.memWrite p v) := by
  obtain rfl := h
  exact .appends rfl rfl

theorem setFlags {f : Byte} (h : Relogs ρ t u) : Relogs ρ (t.setFlags f) (u.setFlags f) := by
  obtain rfl := h
  rfl

theorem setMemptr {w : Word} (h : Relogs ρ t u) : Relogs ρ { t with memptr := w } { u with memptr := w } := by
  obtain rfl := h
  rfl

theorem enter {w : Word} (h : Relogs ρ t u) : Relogs ρ (t.enter w) (u.enter w) := by
  obtain rfl := h
  rfl

theorem alu {op : AluOp} {v : Byte} (h : Relogs ρ t u) : Relogs ρ (t.alu op v) (u.alu op v) := by
  obtain rfl := h
  rfl

theorem setR8 {k : Reg8} {v : Byte} (h : Relogs ρ t u) : Relogs ρ (t.setR8 k v) (u.setR8 k v) := by
  obtain rfl := h
  cases k <;> rfl

theorem setRp {k : RegPair} {w : Word} (h : Relogs ρ t u) : Relogs ρ (t.setRp k w) (u.setRp k w) := by
  obtain rfl := h
  cases k <;> rfl

theorem setQq {k : StackPair} {w : Word} (h : Relogs ρ t u) : Relogs ρ (t.setQq k w) (u.setQq k w) := by
  obtain rfl := h
  cases k <;> rfl

theorem setX {x : IndexReg} {w : Word} (h : Relogs ρ t u) : Relogs ρ (t.setX x w) (u.setX x w) := by
  obtain rfl := h
  cases x <;> rfl

theorem rollBack {p : Word} (h : Relogs ρ t u) : Relogs ρ (t.rollBack p) (u.rollBack p) := by
  obtain rfl := h
  exact .appends rfl rfl

theorem rollBackMemptr {p : Word} (h : Relogs ρ t u) : Relogs ρ (t.rollBackMemptr p) (u.rollBackMemptr p) := by
  obtain rfl := h
  exact .appends rfl rfl

/-! What the operations that instructions share do. -/

theorem m1 : Relogs ρ s.m1 (s.relog ρ).m1 := .appends rfl rfl

theorem fetchOperand : Relogs ρ s.fetchOperand (s.relog ρ).fetchOperand := .appends rfl rfl

theorem readHl : Relogs ρ s.readHl.2 (s.relog ρ).readHl.2 := .emit .refl

theorem readXd {x : IndexReg} {d : Byte} : Relogs ρ (s.readXd x d).2 ((s.relog ρ).readXd x d).2 := .emit (.setMemptr .refl)

theorem loadA {p : Word} : Relogs ρ (s.loadA p) ((s.relog ρ).loadA p) := .appends rfl rfl

theorem storeA {p : Word} : Relogs ρ (s.storeA p) ((s.relog ρ).storeA p) := .setMemptr (.memWrite .refl)

theorem loadWord {nn : Word} : Relogs ρ (s.loadWord nn).2 ((s.relog ρ).loadWord nn).2 :=
  .setMemptr (.emit (.emit .refl))

theorem storeWord {nn w : Word} : Relogs ρ (s.storeWord nn w) ((s.relog ρ).storeWord nn w) :=
  .setMemptr (.memWrite (.memWrite .refl))

theorem push {w : Word} : Relogs ρ (s.push w) ((s.relog ρ).push w) := by
  rw [State.push_eq, State.push_eq]
  exact .appends rfl rfl

theorem pop : Relogs ρ s.pop.2 (s.relog ρ).pop.2 := by
  rw [State.pop_eq, State.pop_eq]
  exact .appends rfl rfl

theorem popPc : Relogs ρ s.popPc (s.relog ρ).popPc := .enter .pop

theorem returnFromInterrupt : Relogs ρ s.returnFromInterrupt (s.relog ρ).returnFromInterrupt := by
  rw [State.returnFromInterrupt_eq, State.returnFromInterrupt_eq]
  exact .appends rfl rfl

theorem callTo {target : Word} : Relogs ρ (s.callTo target) ((s.relog ρ).callTo target) := .enter .push

theorem exchangeTop {w : Word} : Relogs ρ (s.exchangeTop w).2 ((s.relog ρ).exchangeTop w).2 := by
  rw [State.exchangeTop_eq, State.exchangeTop_eq]
  exact .appends rfl rfl

theorem inputC : Relogs ρ s.inputC.2 (s.relog ρ).inputC.2 := .appends rfl rfl

theorem outputC {v : Byte} : Relogs ρ (s.outputC v) ((s.relog ρ).outputC v) := .appends rfl rfl

theorem rotateDigit {g : Byte → Byte → Byte × Byte} : Relogs ρ (s.rotateDigit g) ((s.relog ρ).rotateDigit g) :=
  .setFlags (.setMemptr (.setR8 (k := .a) (.memWrite .readHl)))

theorem modifyR8 {k : Reg8} {g : Modify} (hg : Modify.Relogs ρ g) :
    Relogs ρ (s.modifyR8 k g) ((s.relog ρ).modifyR8 k g) := by
  rw [State.modifyR8_eq, State.modifyR8_eq, hg s]
  exact .setR8 .refl

theorem modifyXh {x : IndexReg} {g : Modify} (hg : Modify.Relogs ρ g) :
    Relogs ρ (s.modifyXh x g) ((s.relog ρ).modifyXh x g) := by
  rw [State.modifyXh, State.modifyXh, hg s]
  exact .setX .refl

theorem modifyXl {x : IndexReg} {g : Modify} (hg : Modify.Relogs ρ g) :
    Relogs ρ (s.modifyXl x g) ((s.relog ρ).modifyXl x g) := by
  rw [State.modifyXl, State.modifyXl, hg s]
  exact .setX .refl

theorem modifyMem {p : Word} {g : Modify} (hg : Modify.Relogs ρ g) (h : Relogs ρ t u) :
    Relogs ρ (t.modifyMem p g) (u.modifyMem p g) := by
  obtain rfl := h
  rw [State.modifyMem_eq, State.modifyMem_eq, show _ = _ from emit (ev := .memRead p) (refl (s := t)), hg]
  exact .memWrite .refl

theorem modifyHl {g : Modify} (hg : Modify.Relogs ρ g) : Relogs ρ (s.modifyHl g) ((s.relog ρ).modifyHl g) :=
  .modifyMem hg .refl

theorem modifyXd {x : IndexReg} {d : Byte} {g : Modify} (hg : Modify.Relogs ρ g) :
    Relogs ρ (s.modifyXd x d g) ((s.relog ρ).modifyXd x d g) :=
  .modifyMem hg (.setMemptr .refl)

theorem modifyXdR {x : IndexReg} {d : Byte} {k : Reg8} {g : Modify} (hg : Modify.Relogs ρ g) :
    Relogs ρ (s.modifyXdR x d k g) ((s.relog ρ).modifyXdR x d k g) := by
  rw [State.modifyXdR_eq, State.modifyXdR_eq, show _ = _ from readXd, hg]
  exact .setR8 (.memWrite .refl)

theorem blockTransfer {δ : Word} : Relogs ρ (s.blockTransfer δ) ((s.relog ρ).blockTransfer δ) := by
  rw [State.blockTransfer_eq, State.blockTransfer_eq]
  exact .appends rfl rfl

theorem blockCompare {δ : Word} : Relogs ρ (s.blockCompare δ) ((s.relog ρ).blockCompare δ) := by
  rw [State.blockCompare_eq, State.blockCompare_eq]
  exact .appends rfl rfl

theorem blockIn {δ : Word} : Relogs ρ (s.blockIn δ) ((s.relog ρ).blockIn δ) := by
  rw [State.blockIn_eq, State.blockIn_eq]
  exact .appends rfl rfl

theorem blockOut {δ : Word} : Relogs ρ (s.blockOut δ) ((s.relog ρ).blockOut δ) := by
  rw [State.blockOut_eq, State.blockOut_eq]
  exact .appends rfl rfl

theorem transferRepeat {δ : Word} : Relogs ρ (s.transferRepeat δ) ((s.relog ρ).transferRepeat δ) := by
  rw [State.transferRepeat, State.transferRepeat, show _ = _ from blockTransfer]
  exact .ite (.rollBackMemptr .refl) .refl

theorem compareRepeat {δ : Word} : Relogs ρ (s.compareRepeat δ) ((s.relog ρ).compareRepeat δ) := by
  rw [State.compareRepeat, State.compareRepeat, show _ = _ from blockCompare]
  exact .ite (.rollBackMemptr .refl) .refl

theorem inRepeat {δ : Word} : Relogs ρ (s.inRepeat δ) ((s.relog ρ).inRepeat δ) := by
  rw [State.inRepeat, State.inRepeat, show _ = _ from blockIn]
  exact .ite (.rollBack .refl) .refl

theorem outRepeat {δ : Word} : Relogs ρ (s.outRepeat δ) ((s.relog ρ).outRepeat δ) := by
  rw [State.outRepeat, State.outRepeat, show _ = _ from blockOut]
  exact .ite (.rollBack .refl) .refl

end Relogs

/-! ## Every instruction: one case for each group that appends events alike -/

theorem exec_relogs (ρ : Relog) (i : Instr) (s : State) :
    ∃ t u, exec i s = .next t ∧ exec i (s.relog ρ) = .next u ∧ Relogs ρ t u := by
  cases i with
  -- no event
  | nop | ddFallback _ _ | ldSpHl | ldSpX _ | exDeHl | exAfAf | exx | ldIA | ldRefreshA | ldAI | ldARefresh | im0 _ | im1 _
  | im2 _ | di | ei | halt | jp _ | jpHl | jpX _ | jr _ | rlca | rrca | rla | rra | daa | cpl | neg _ | scf | ccf =>
    exact ⟨_, _, rfl, rfl, rfl⟩
  | jpCc _ _ | jrCc _ _ | djnz _ => exact ⟨_, _, rfl, rfl, .ite rfl rfl⟩
  | ldRR _ _ | ldRN _ _ | ldRXh _ _ | ldRXl _ _ => exact ⟨_, _, rfl, rfl, .setR8 .refl⟩
  | ldRpNn _ _ | incRp _ | decRp _ => exact ⟨_, _, rfl, rfl, .setRp .refl⟩
  | ldXNn _ _ | incX _ | decX _ | ldXhN _ _ | ldXlN _ _ | ldXhS _ _ | ldXlS _ _ => exact ⟨_, _, rfl, rfl, .setX .refl⟩
  | addHlRp _ | adcHlRp _ | sbcHlRp _ => exact ⟨_, _, rfl, rfl, .setFlags rfl⟩
  | addXRp _ _ => exact ⟨_, _, rfl, rfl, .setFlags (.setX (.setMemptr .refl))⟩
  | bitR _ _ => exact ⟨_, _, rfl, rfl, .setFlags .refl⟩
  | addR _ | adcR _ | subR _ | sbcR _ | andR _ | xorR _ | orR _ | cpR _ | addN _ | adcN _ | subN _ | sbcN _ | andN _ | xorN _
  | orN _ | cpN _ | addXh _ | adcXh _ | subXh _ | sbcXh _ | andXh _ | xorXh _ | orXh _ | cpXh _ | addXl _ | adcXl _ | subXl _
  | sbcXl _ | andXl _ | xorXl _ | orXl _ | cpXl _ => exact ⟨_, _, rfl, rfl, .alu .refl⟩
  | incR _ | decR _ | rlcR _ | rrcR _ | rlR _ | rrR _ | slaR _ | sraR _ | sllR _ | srlR _ | resR _ _ | setR _ _ =>
    exact ⟨_, _, rfl, rfl, .modifyR8 fun _ _ => rfl⟩
  | incXh _ | decXh _ => exact ⟨_, _, rfl, rfl, .modifyXh fun _ _ => rfl⟩
  | incXl _ | decXl _ => exact ⟨_, _, rfl, rfl, .modifyXl fun _ _ => rfl⟩
  -- memory is read
  | prefixCB | prefixED | prefixDD | prefixFD => exact ⟨_, _, rfl, rfl, .m1⟩
  | prefixXCB _ _ => exact ⟨_, _, rfl, rfl, .setMemptr .fetchOperand⟩
  | ldABc | ldADe | ldAMem _ => exact ⟨_, _, rfl, rfl, .loadA⟩
  | ldRHl _ => exact ⟨_, _, rfl, rfl, .setR8 .readHl⟩
  | ldRXd _ _ _ => exact ⟨_, _, rfl, rfl, .setR8 .readXd⟩
  | ldHlMem _ => exact ⟨_, _, rfl, rfl, .setRp (k := .hl) .loadWord⟩
  | ldRpMem _ _ => exact ⟨_, _, rfl, rfl, .setRp .loadWord⟩
  | ldXMem _ _ => exact ⟨_, _, rfl, rfl, .setX .loadWord⟩
  | popQq _ => exact ⟨_, _, rfl, rfl, .setQq .pop⟩
  | popX _ => exact ⟨_, _, rfl, rfl, .setX .pop⟩
  | ret => exact ⟨_, _, rfl, rfl, .popPc⟩
  | retCc _ => exact ⟨_, _, rfl, rfl, .ite .popPc .refl⟩
  | retn _ | reti => exact ⟨_, _, rfl, rfl, .returnFromInterrupt⟩
  | bitHl _ => exact ⟨_, _, rfl, rfl, .setFlags .readHl⟩
  | bitXd _ _ _ _ => exact ⟨_, _, rfl, rfl, .setFlags .readXd⟩
  | addHl | adcHl | subHl | sbcHl | andHl | xorHl | orHl | cpHl => exact ⟨_, _, rfl, rfl, .alu .readHl⟩
  | addXd _ _ | adcXd _ _ | subXd _ _ | sbcXd _ _ | andXd _ _ | xorXd _ _ | orXd _ _ | cpXd _ _ =>
    exact ⟨_, _, rfl, rfl, .alu .readXd⟩
  | cpi | cpd => exact ⟨_, _, rfl, rfl, .blockCompare⟩
  | cpir | cpdr => exact ⟨_, _, rfl, rfl, .compareRepeat⟩
  -- memory is written
  | ldBcA | ldDeA | ldMemA _ => exact ⟨_, _, rfl, rfl, .storeA⟩
  | ldHlN _ | ldHlR _ => exact ⟨_, _, rfl, rfl, .memWrite .refl⟩
  | ldXdN _ _ _ | ldXdR _ _ _ => exact ⟨_, _, rfl, rfl, .memWrite (.setMemptr .refl)⟩
  | ldMemHl _ | ldMemRp _ _ | ldMemX _ _ => exact ⟨_, _, rfl, rfl, .storeWord⟩
  | pushQq _ | pushX _ => exact ⟨_, _, rfl, rfl, .push⟩
  | call _ | rst _ => exact ⟨_, _, rfl, rfl, .callTo⟩
  | callCc _ _ => exact ⟨_, _, rfl, rfl, .ite .callTo (.setMemptr .refl)⟩
  | exSpHl => exact ⟨_, _, rfl, rfl, .setRp (k := .hl) .exchangeTop⟩
  | exSpX _ => exact ⟨_, _, rfl, rfl, .setX .exchangeTop⟩
  | incHl | decHl | rlcHl | rrcHl | rlHl | rrHl | slaHl | sraHl | sllHl | srlHl | resHl _ | setHl _ =>
    exact ⟨_, _, rfl, rfl, .modifyHl fun _ _ => rfl⟩
  | incXd _ _ | decXd _ _ | rlcXd _ _ | rrcXd _ _ | rlXd _ _ | rrXd _ _ | slaXd _ _ | sraXd _ _ | sllXd _ _ | srlXd _ _
  | resXd _ _ _ | setXd _ _ _ => exact ⟨_, _, rfl, rfl, .modifyXd fun _ _ => rfl⟩
  | rlcXdR _ _ _ | rrcXdR _ _ _ | rlXdR _ _ _ | rrXdR _ _ _ | slaXdR _ _ _ | sraXdR _ _ _ | sllXdR _ _ _ | srlXdR _ _ _
  | resXdR _ _ _ _ | setXdR _ _ _ _ => exact ⟨_, _, rfl, rfl, .modifyXdR fun _ _ => rfl⟩
  | rld | rrd => exact ⟨_, _, rfl, rfl, .rotateDigit⟩
  | ldi | ldd => exact ⟨_, _, rfl, rfl, .blockTransfer⟩
  | ldir | lddr => exact ⟨_, _, rfl, rfl, .transferRepeat⟩
  -- ports and the log
  | inAN _ => exact ⟨_, _, rfl, rfl, .appends rfl rfl⟩
  | inRC _ => exact ⟨_, _, rfl, rfl, .setR8 .inputC⟩
  | inC => exact ⟨_, _, rfl, rfl, .inputC⟩
  | outNA _ => exact ⟨_, _, rfl, rfl, .appends rfl rfl⟩
  | outCR _ | outC0 => exact ⟨_, _, rfl, rfl, .outputC⟩
  | ini | ind => exact ⟨_, _, rfl, rfl, .blockIn⟩
  | inir | indr => exact ⟨_, _, rfl, rfl, .inRepeat⟩
  | outi | outd => exact ⟨_, _, rfl, rfl, .blockOut⟩
  | otir | otdr => exact ⟨_, _, rfl, rfl, .outRepeat⟩
  | edNop _ => exact ⟨_, _, rfl, rfl, .emit .refl⟩

end Sys2Proof.Machine
end

section
/-!
PROOFS. Breakpoints only notify: O16. The rows and phases of a step but for the breakpoint check act alike on a state and on the
state with another breakpoint matrix and another past (`exec_relogs`); forgetting the matrix and the Notify events forgets the
check as well.
-/

namespace Sys2Proof.Machine

/-! ## The rows of a step -/

/-- The answer with the breakpoint matrix and the events of its state changed. -/
def Result.relog (r : Result) (ρ : Relog) : Result :=
  match r with
  | .next s => .next (s.relog ρ)
  | .fault (.hang s) => .fault (.hang (s.relog ρ))
  | .refused e => .refused e

theorem Result.relog_eq_next {r : Result} {ρ : Relog} {t : State} (h : Result.relog r ρ = .next t) :
    ∃ u, r = .next u ∧ u.relog ρ = t := by
  cases r with
  | next u => exact ⟨u, rfl, Host.Outcome.next.inj h⟩
  | fault e =>
    cases e
    cases h
  | refused e => cases h

theorem exec_relog (ρ : Relog) {i : Instr} {s t : State} (h : exec i s = .next t) :
    exec i (s.relog ρ) = .next (t.relog ρ) := by
  obtain ⟨t', u, ht, hu, hrelogs⟩ := exec_relogs ρ i s
  obtain rfl : t' = t := Host.Outcome.next.inj (ht.symm.trans h)
  rw [hu, show u = _ from hrelogs]

section
variable (ρ : Relog) (s : State) (dom : Domain) (op : Byte)

theorem State.rowAt_relog : (s.relog ρ).rowAt dom op = s.rowAt dom op := rfl

theorem State.fetchOperands_relog (n : Nat) : (s.relog ρ).fetchOperands n = (s.fetchOperands n).relog ρ := by
  induction n generalizing s with
  | zero => rfl
  | succ n ih => rw [State.fetchOperands, State.fetchOperands, show _ = _ from Relogs.fetchOperand, ih]

theorem State.pastRow_relog : (s.relog ρ).pastRow dom op = (s.pastRow dom op).relog ρ :=
  s.fetchOperands_relog ρ _

theorem State.nextOp_relog (dom' : Domain) : (s.relog ρ).nextOp dom op dom' = s.nextOp dom op dom' := by
  rw [State.nextOp, State.pastRow_relog]
  rfl

theorem runRow_relog {k : Domain → Byte → State → Result}
    (hk : ∀ dom' b u, k dom' b (u.relog ρ) = Result.relog (k dom' b u) ρ) :
    runRow exec dom op (s.relog ρ) k = Result.relog (runRow exec dom op s k) ρ := by
  obtain ⟨u, hx⟩ := exec_answers (s.rowAt dom op) (s.pastRow dom op)
  have hx' : exec ((s.relog ρ).rowAt dom op) ((s.relog ρ).pastRow dom op) = .next (u.relog ρ) := by
    rw [State.rowAt_relog, State.pastRow_relog, exec_relog ρ hx]
  rw [runRow_eq hx, runRow_eq hx', State.rowAt_relog]
  split
  · rfl
  · rw [State.nextOp_relog, hk]

theorem dispatch_relog (n : Nat) : dispatch exec n op (s.relog ρ) = Result.relog (dispatch exec n op s) ρ := by
  have lastRow (dom : Domain) (b : Byte) (u : State) :
      runRow exec dom b (u.relog ρ) (fun _ _ t => .next t) = Result.relog (runRow exec dom b u fun _ _ t => .next t) ρ :=
    runRow_relog ρ u dom b fun _ _ _ => rfl
  induction n generalizing s op with
  | zero =>
    rw [dispatch, dispatch]
    split
    · rfl
    · exact runRow_relog ρ s .base op lastRow
  | succ n ih =>
    refine runRow_relog ρ s .base op fun dom b u => runRow_relog ρ u dom b fun dom' b' u' => ?_
    cases dom' with
    | base => exact ih u' b'
    | cb | ed | index _ | indexCB _ _ => exact lastRow _ b' u'

end

/-! ## The events that are Notify -/

/-- The Notify events of a list. -/
def notifies (evs : List Event) : List Event := evs.filter fun ev => decide (ev = .notify)

/-- The other events. -/
def withoutNotify (evs : List Event) : List Event := evs.filter fun ev => decide (ev ≠ .notify)

theorem notifies_append (es es' : List Event) : notifies (es ++ es') = notifies es ++ notifies es' :=
  List.filter_append ..

theorem notifies_withoutNotify (es : List Event) : notifies (withoutNotify es) = [] := by
  simp [notifies, withoutNotify, List.filter_filter]

/-- No Notify event is left; the breakpoint matrix is as given. -/
def Relog.quiet (m : List Nat) : Relog where
  bp := m
  log := withoutNotify
  log_append es ev h := by simp [withoutNotify, h]

/-- The events `es` come before all others; the breakpoint matrix is as given. -/
def Relog.after (m : List Nat) (es : List Event) : Relog where
  bp := m
  log evs := es ++ evs
  log_append _ _ _ := (List.append_assoc ..).symm

/-- `dispatch` makes no Notify event: it appends to any past what it appends to the empty one, and nothing of that is lost
without the Notify events. -/
theorem notifies_of_dispatch {n : Nat} {op : Byte} {s t : State} (h : dispatch exec n op s = .next t) :
    notifies t.events = notifies s.events := by
  have hpast : ({ s with events := [] } : State).relog (.after s.bp s.events) = s := by
    simp [State.relog, Relog.after]
  have hquiet : ({ s with events := [] } : State).relog (.quiet s.bp) = { s with events := [] } := rfl
  rw [← hpast, dispatch_relog] at h
  obtain ⟨t', ht', rfl⟩ := Result.relog_eq_next h
  have hevents : t'.events = withoutNotify t'.events := by
    have h' := dispatch_relog (.quiet s.bp) { s with events := [] } op n
    rw [hquiet, ht'] at h'
    exact congrArg State.events (Host.Outcome.next.inj h')
  calc notifies (s.events ++ t'.events)
      = notifies s.events ++ notifies (withoutNotify t'.events) := by rw [notifies_append, ← hevents]
    _ = notifies s.events := by rw [notifies_withoutNotify, List.append_nil]

/-! ## The phases before dispatch -/

theorem Relogs.acceptINT {ρ : Relog} {s : State} : Relogs ρ s.acceptINT (s.relog ρ).acceptINT := by
  rw [State.acceptINT_eq, State.acceptINT_eq]
  refine .appends (List.append_assoc ..) (by rw [← List.append_assoc]; rfl) ?_
  by_cases him : s.im = .im2 <;> simp [him]

theorem State.takeInt_relog (s : State) (ρ : Relog) : (s.relog ρ).takeInt = s.takeInt.relog ρ :=
  Relogs.ite .acceptINT .refl

theorem State.fetchOpcode_relog (s : State) (ρ : Relog) : (s.relog ρ).fetchOpcode = s.fetchOpcode.relog ρ := by
  rw [State.fetchOpcode_eq, State.fetchOpcode_eq]
  exact Relogs.appends rfl rfl

theorem State.checkBreakpoint_relog_quiet (s : State) (m : List Nat) :
    s.checkBreakpoint.relog (.quiet m) = s.relog (.quiet m) := by
  rw [State.checkBreakpoint_eq]
  split <;> simp [State.relog, Relog.quiet, withoutNotify]

/-- The state with another breakpoint matrix. -/
def State.withBp (s : State) (m : List Nat) : State := { s with bp := m }

/-- Where the first byte is fetched, the breakpoint matrix of the state before has come into Notify events only. -/
theorem State.atFetch_relog_quiet (s : State) (m m' : List Nat) :
    (s.withBp m).atFetch.relog (.quiet m') = s.atFetch.relog (.quiet m') := by
  rw [State.atFetch, State.atFetch, State.checkBreakpoint_relog_quiet, State.checkBreakpoint_relog_quiet,
    ← State.takeInt_relog, ← State.takeInt_relog]
  rfl

/-! ## The two statements -/

/-- States that are equal but for the matrix and the events. -/
theorem State.eq_of_relog_eq {t u : State} {ρ : Relog} (h : u.relog ρ = t.relog ρ) :
    u = { t with bp := u.bp, events := u.events } :=
  congrArg (fun v : State => { v with bp := u.bp, events := u.events }) h

theorem State.byteAt_pc_of_relog_eq {t u : State} {ρ : Relog} (h : u.relog ρ = t.relog ρ) :
    u.byteAt u.pc = t.byteAt t.pc :=
  (congrArg (fun v : State => v.byteAt v.pc) h :)

/-- A step on a state with another breakpoint matrix. -/
theorem step_relog_quiet {s t : State} (m : List Nat) (h : step s = .next t) :
    ∃ u, step (s.withBp m) = .next u ∧ u.relog (.quiet []) = t.relog (.quiet []) := by
  cases hnmi : s.activeNMI with
  | true =>
    rw [step_of_nmi hnmi] at h
    obtain rfl := Host.Outcome.next.inj h
    refine ⟨_, step_of_nmi (s := s.withBp m) hnmi, ?_⟩
    rw [State.acceptNMI_eq, State.acceptNMI_eq]
    rfl
  | false =>
    obtain ⟨t', ht', rfl⟩ := dispatch_of_step hnmi h
    have hfetch := s.atFetch_relog_quiet m []
    have hop : (s.withBp m).atFetch.byteAt (s.withBp m).atFetch.pc = s.atFetch.byteAt s.atFetch.pc :=
      State.byteAt_pc_of_relog_eq hfetch
    have hdispatch : Result.relog (dispatch exec (Config.chainLimit - 1) (s.atFetch.byteAt s.atFetch.pc)
        (s.withBp m).atFetch.fetchOpcode) (.quiet []) = .next (t'.relog (.quiet [])) := by
      rw [← dispatch_relog, ← State.fetchOpcode_relog, hfetch, State.fetchOpcode_relog, dispatch_relog, ht']
      rfl
    obtain ⟨u', hu', hrelog⟩ := Result.relog_eq_next hdispatch
    rw [← hop] at hu'
    refine ⟨_, step_of_dispatch hnmi hu', ?_⟩
    rw [hop]
    exact congrArg (fun v : State => v.endStep (s.atFetch.byteAt s.atFetch.pc)) hrelog

/-- Taking an INT makes no Notify event. -/
theorem State.notifies_takeInt_beginStep (s : State) : notifies s.beginStep.takeInt.events = [] := by
  rw [State.takeInt]
  split
  · rw [State.acceptINT_eq]
    by_cases him : s.im = .im2 <;> simp [notifies, State.beginStep, him]
  · rfl

/-- The one breakpoint check of a step that accepts no NMI (R630). -/
theorem State.notifies_atFetch (s : State) :
    notifies s.atFetch.events = if s.atFetch.pc.toNat ∈ s.bp then [.notify] else [] := by
  have hbp : s.atFetch.bp = s.bp := congrArg Prod.snd s.atFetch_lastPC_bp
  rw [← hbp, State.atFetch, State.checkBreakpoint_eq, notifies_append, State.notifies_takeInt_beginStep, List.nil_append]
  simp only [List.contains_iff_mem]
  split <;> rfl

/-- A step that accepts an NMI makes no Notify event, and one that accepts none only that of the check. -/
theorem step_notifies {s t : State} (h : step s = .next t) :
    notifies t.events = if s.activeNMI = false ∧ s.atFetch.pc.toNat ∈ s.bp then [.notify] else [] := by
  cases hnmi : s.activeNMI with
  | true =>
    rw [step_of_nmi hnmi] at h
    rw [if_neg (by simp), ← Host.Outcome.next.inj h, State.acceptNMI_eq]
    rfl
  | false =>
    obtain ⟨u, hu, rfl⟩ := dispatch_of_step hnmi h
    have hfetch : notifies s.atFetch.fetchOpcode.events = notifies s.atFetch.events := by
      rw [State.fetchOpcode_eq, notifies_append]
      exact List.append_nil _
    simp only [true_and]
    exact ((notifies_of_dispatch hu).trans hfetch).trans s.notifies_atFetch

/-- Settles O16: `step_relog_quiet` and `step_notifies`. -/
theorem breakpointsOnlyNotify : Obligations.BreakpointsOnlyNotify := by
  refine ⟨fun s t m h => ?_, fun s t h => ?_⟩
  · obtain ⟨u, hu, hrelog⟩ := step_relog_quiet m h
    have hbp : u.bp = m := (step_lastPC_bp hu).2
    refine ⟨u, hu, ?_, congrArg State.events hrelog⟩
    rw [← hbp]
    exact State.eq_of_relog_eq hrelog
  · refine (congrArg List.length (step_notifies h)).trans ?_
    split <;> rfl

end Sys2Proof.Machine
end
